-- ==== Sys2Proof/Word.lean ====
section
/-! DEFINITION. The word types of PBX-CORE (spec/00_scope.md R7: every quantity is unsigned). -/

namespace Sys2Proof

/-- One byte of the pixel operand buffer or of the transmit stream (R9). -/
abbrev Byte := BitVec 8

/-- The checksum register and the data half of a response word (R21, R75). -/
abbrev Word32 := BitVec 32

/-- A command word, a response word, or a clock sample (R70, R75, R33). -/
abbrev Word64 := BitVec 64

end Sys2Proof
end

