-- ==== Sys2Proof/Machine/Flags.lean ====
section
/-! DEFINITION. PBX-CORE has no flags and no condition codes (spec/10_state.md R38): what a command reports is the status
field of its response word. This file holds the status codes and the response word (spec/30_encoding.md R75, R76). -/

namespace Sys2Proof.Machine

/-- The outcome of a command, as its response reports it (R76). -/
inductive Status where
  | ok
  | invalidArgument
  | notConnected
  | unsupported
  | outOfRange
  | noDriver
  | busy
  | illegalCommand
deriving DecidableEq, Repr

/-- The numbers of R76. -/
def Status.code (st : Status) : BitVec 4 :=
  match st with
  | .ok => 0#4
  | .invalidArgument => 1#4
  | .notConnected => 2#4
  | .unsupported => 3#4
  | .outOfRange => 4#4
  | .noDriver => 5#4
  | .busy => 6#4
  | .illegalCommand => 7#4

/-- The response word (R75): the data in bits 63:32, zeros in bits 31:4, the status in bits 3:0. -/
def rspWord (st : Status) (data : Word32) : Word64 := data.setWidth 64 <<< 32 ||| st.code.setWidth 64

/-- The status field of a response word (R75). -/
def rspStatus (w : Word64) : BitVec 4 := w.extractLsb' 0 4

/-- The data field of a response word (R75). -/
def rspData (w : Word64) : Word32 := w.extractLsb' 32 32

end Sys2Proof.Machine
end

