-- ==== Sys2Proof/Syntax.lean ====
section
/-! DEFINITION. The nine commands of spec/30_encoding.md R74, one constructor for each row of
spec/opcode_table.json, with the operands R72 and R79 give them; and what the host presents at the command port. -/

namespace Sys2Proof

/-- A session reference (R79, R160): `sv = 1` names the one session, `sv = 0` is the absent one. -/
inductive SesRef where
  | null
  | ses
deriving DecidableEq, Repr, Inhabited

/-- A channel reference (R79): `cv = 0` is the absent one, `cv = 1` names context `i`. Whether `i < NCTX` is asked
when the command runs, since it depends on the machine's size. -/
inductive ChanRef where
  | null
  | ctx (i : BitVec 4)
deriving DecidableEq, Repr, Inhabited

/-- A command (R15, R74). Operand widths are the field widths of R71, so each operand is in range by its type. The
pixel operand buffer is an operand of `TX.WRITE`, as R50 says a model takes it. -/
inductive Instr where
  /-- `CRC.INIT` (R105). -/
  | crcInit
  /-- `CRC.UPD b` (R106). -/
  | crcUpd (b : Byte)
  /-- `CRC.FIN` (R107). -/
  | crcFin
  /-- `CH.CFG cI|null, num, kind, r, g, b, w` (R126). -/
  | chCfg (ch : ChanRef) (num kind r g b w : Byte)
  /-- `CH.KIND cI|null, kind` (R131). -/
  | chKind (ch : ChanRef) (kind : Byte)
  /-- `S.OPEN` (R162). -/
  | sOpen
  /-- `S.CLOSE ses|null` (R176). -/
  | sClose (sr : SesRef)
  /-- `TX.WRITE ses|null, cI|null, n, [pix]` (R165). -/
  | txWrite (sr : SesRef) (ch : ChanRef) (n : BitVec 16) (pix : List Byte)
  /-- `TX.COMMIT ses|null` (R172). -/
  | txCommit (sr : SesRef)
deriving DecidableEq, Repr, Inhabited

/-- What the host presents for one command (R70): the command word, and the pixel operand buffer beside it. -/
structure PortCommand where
  word : Word64
  pix  : List Byte
deriving DecidableEq, Repr, Inhabited

/-- One action of the host (R13 (b), R242): a command, or a reset between commands (R222). -/
inductive HostAction where
  | command (c : PortCommand)
  | reset
deriving DecidableEq, Repr, Inhabited

/-- The answer of the external transport factory to one request (R34, R161). -/
inductive OpenAnswer where
  | ok
  | err (code : Word32)
deriving DecidableEq, Repr, Inhabited

end Sys2Proof
end

