-- ==== Sys2Proof/Config.lean ====
section
/-! DEFINITION. What an implementation fixes and what the spec leaves open: the default number of channel contexts, and
the two free values (the clock's and the transport factory's). Nothing constrains a free value. -/

namespace Sys2Proof

/-- The spec's default for `NCTX` (R5, D5). Only `State.reset` uses it: everywhere else the number of contexts is the
length of the state's context file, so what is proved of every state holds for every `NCTX` (log entry 4). -/
def Config.nctxDefault : Nat := 4

/-- FREE VALUE. What the clock would show at draw `k`, before the monotonicity of R33 is applied (log entry 6). -/
opaque Config.freeSample : Nat → Word64

/-- FREE VALUE. What the transport factory answers at draw `k` (R34, U9; log entry 7). -/
opaque Config.freeAnswer : Nat → OpenAnswer

end Sys2Proof
end

