-- ==== Sys2Proof/Machine/State.lean ====
section
/-! DEFINITION. The state of PBX-CORE (spec/10_state.md R20 to R40), the environment's inputs and outputs as plain data
(R32 to R35, spec/70_reset_and_hazards.md R241), and the reasons a step can stop. -/

namespace Sys2Proof.Machine

/-- One channel context, the eight fields of R22 to R27. -/
structure ChanCtx where
  /-- `channel_number` (R23). -/
  num    : BitVec 8
  /-- Channel kind code: 0 Disabled, 3 RGB, 4 RGBW (R24). -/
  kind   : BitVec 8
  /-- Component width in bytes per pixel (R25). -/
  width  : BitVec 3
  /-- Red placement offset (R26). -/
  offR   : BitVec 2
  /-- Green placement offset (R26). -/
  offG   : BitVec 2
  /-- Blue placement offset (R26). -/
  offB   : BitVec 2
  /-- White placement offset (R26). -/
  offW   : BitVec 2
  /-- Pixel count of the most recent write (R27). -/
  pcount : BitVec 16
deriving DecidableEq, Repr, Inhabited

/-- A context after reset (R40): every field zero, which is a Disabled channel. -/
def ChanCtx.reset : ChanCtx :=
  { num := 0, kind := 0, width := 0, offR := 0, offG := 0, offB := 0, offW := 0, pcount := 0 }

/-- The control state (R30). -/
inductive Phase where
  /-- No command in progress, the port is ready. -/
  | idle
  /-- A `TX.COMMIT` has passed its checks and is polling the gate. -/
  | wait
deriving DecidableEq, Repr, Inhabited

/-- An event of the output trace (R35). -/
inductive XEvent where
  | xOpen
  | xByte (b : Byte)
  | xClose
deriving DecidableEq, Repr, Inhabited

/-- The machine. The first seven fields are the whole architectural state of R20. The other six belong to the model:
they are what R241 makes the inputs and the observation of a run (log entries 1, 3, 5, 6, 7). -/
structure State where
  /-- The running checksum (R21). -/
  crc        : Word32
  /-- The channel context file (R22): its length is `NCTX`, its element `i` is `ctx[i]`. -/
  ctx        : List ChanCtx
  /-- The connected flag (R28). -/
  linkOpen   : Bool
  /-- Microsecond timestamp of the last commit or open (R29). -/
  lastCommit : Word64
  /-- Idle, or a commit waiting at the gate (R30). -/
  phase      : Phase
  /-- Everything handed to the transport since reset, oldest first (R35). -/
  xlog       : List XEvent
  /-- The response words given so far, oldest first (R70, R75, R241). -/
  rsps       : List Word64
  /-- The host's remaining actions, next first (R31, R241). -/
  port       : List HostAction
  /-- The clock samples still to be drawn, next first (R33, R241). After the last one the clock is a free value. -/
  samples    : List Word64
  /-- The factory's answers still to be given, next first (R34, R241). After the last one the answer is a free value. -/
  answers    : List OpenAnswer
  /-- The ghost `clk_seen` of R33: the largest clock sample so far. -/
  clkSeen    : Word64
  /-- Where the next free value is drawn. -/
  draws      : Nat
deriving DecidableEq, Repr

/-- The machine after reset with `n` channel contexts (R40), nothing presented, nothing sampled, nothing answered. The
values of the model's own fields are log entry 17. -/
def State.resetWith (n : Nat) : State :=
  { crc := 0xFFFFFFFF#32
    ctx := List.replicate n ChanCtx.reset
    linkOpen := false
    lastCommit := 0#64
    phase := .idle
    xlog := []
    rsps := []
    port := []
    samples := []
    answers := []
    clkSeen := 0#64
    draws := 0 }

/-- The machine right after reset (R40), with the default number of contexts (R5, log entry 4). -/
def State.reset : State := State.resetWith Config.nctxDefault

/-- Why the model stops with a fault. -/
inductive Fault where
  /-- Raised by `TX.WRITE` alone, when it has passed its checks and its pixel buffer is shorter than
  `pixel_count * width` (R52, R193). Safe: no claim holds of a run that reaches it (log entry 11). -/
  | pixUnderrun
deriving DecidableEq, Repr

/-- Why the model refuses a step. -/
inductive Refusal where
  /-- Raised by an arm of `exec` whose instruction has no meaning yet. Safe. No arm raises it now. -/
  | notModelled (mnemonic : String)
  /-- Raised by `S.OPEN` and by a poll of `TX.COMMIT` when the next listed clock sample is smaller than an earlier one,
  which R33 excludes and U10 treats as no move. Unsafe, since the monotone clock is an assumption about the environment
  that R233 says a real clock could break (log entry 5). -/
  | clockNotMonotone
deriving DecidableEq, Repr

end Sys2Proof.Machine
end

