-- ==== Sys2Proof/Machine/Operands.lean ====
section
/-! DEFINITION. Operand forms: the channel reference, and the reading of the pixel operand buffer
(spec/30_encoding.md R79, spec/20_memory.md R50 to R53). A session reference needs no resolving: there is one session
(R160). -/

namespace Sys2Proof.Machine

/-- The context a channel reference names, with its index; none when the reference is absent: `cv = 0`, or an index not
below `NCTX` (R79). -/
def State.channel (s : State) (ch : ChanRef) : Option (Nat × ChanCtx) :=
  match ch with
  | .null => none
  | .ctx i =>
    match s.ctx[i.toNat]? with
    | some c => some (i.toNat, c)
    | none => none

/-- `pix[0 .. need)` (R144): the first `need` bytes of the buffer, none when the buffer is shorter (R52). Bytes past
`need` are not read (R53). -/
def readPix (pix : List Byte) (need : Nat) : Option (List Byte) :=
  if need ≤ pix.length then some (pix.take need) else none

end Sys2Proof.Machine
end

