-- ==== Sys2Proof/Machine/Ops.lean ====
section
/-! DEFINITION. The named operations the meanings share: answering, failing, writing a context, appending to the output
trace, drawing a clock sample, asking the transport factory, and reset. -/

namespace Sys2Proof.Machine

/-! ## Byte order (spec/20_memory.md R57, spec/00_scope.md R11) -/

/-- Two bytes, least significant first. -/
def le16 (v : BitVec 16) : List Byte := [v.extractLsb' 0 8, v.extractLsb' 8 8]

/-- Four bytes, least significant first. -/
def le32 (v : Word32) : List Byte :=
  [v.extractLsb' 0 8, v.extractLsb' 8 8, v.extractLsb' 16 8, v.extractLsb' 24 8]

/-! ## Answering (spec/00_scope.md R10) -/

/-- `rsp(st, data)`: the response word of the command in progress, after every effect of it (R62). -/
def State.respond (s : State) (st : Status) (data : Word32) : State :=
  { s with rsps := s.rsps ++ [rspWord st data] }

/-- `raise`: the exceptional outcome of a command, this hardware's whole exception entry. Nothing is saved, no register
is written, no byte is appended, and there is nothing to return from (R10, R200, R201). -/
def State.raise (s : State) (st : Status) (data : Word32) : Host.Outcome State Fault Refusal :=
  .next (s.respond st data)

/-! ## The context file and the output trace -/

/-- `ctx[i] <- c` (R22). -/
def State.setContext (s : State) (i : Nat) (c : ChanCtx) : State := { s with ctx := s.ctx.set i c }

/-- `tx(bs)`: the bytes handed to the transport, first element first (R9, R55). -/
def State.tx (s : State) (bs : List Byte) : State := { s with xlog := s.xlog ++ bs.map .xByte }

/-- Appends `XOpen` or `XClose` (R35). -/
def State.logEvent (s : State) (e : XEvent) : State := { s with xlog := s.xlog ++ [e] }

/-! ## The environment's answers -/

/-- `sample_now()` (R33): the next listed sample, or past the list a free value raised to the largest sample so far. None
when the next listed sample is smaller than an earlier one, which R33 excludes. -/
def State.sampleNow (s : State) : Option (Word64 × State) :=
  match s.samples with
  | t :: rest => if s.clkSeen ≤ t then some (t, { s with samples := rest, clkSeen := t }) else none
  | [] =>
    let t := if s.clkSeen ≤ Config.freeSample s.draws then Config.freeSample s.draws else s.clkSeen
    some (t, { s with clkSeen := t, draws := s.draws + 1 })

/-- `xport_open()` (R34, R161): the next listed answer, or past the list a free one. -/
def State.xportOpen (s : State) : OpenAnswer × State :=
  match s.answers with
  | a :: rest => (a, { s with answers := rest })
  | [] => (Config.freeAnswer s.draws, { s with draws := s.draws + 1 })

/-! ## Reset -/

/-- Reset as the host asserts it between commands (R220, R221): the core's registers as R40 says, the trace empty, no
event for the transport. The clock, the factory, the host's list and the responses already given are not the core's and
stay (log entry 10). -/
def State.assertReset (s : State) : State :=
  { State.resetWith s.ctx.length with
    rsps := s.rsps
    port := s.port
    samples := s.samples
    answers := s.answers
    clkSeen := s.clkSeen
    draws := s.draws }

end Sys2Proof.Machine
end

