-- ==== Sys2Proof/Machine/Params.lean ====
section
/-! DEFINITION. The constants the source fixes (spec/00_scope.md R4), literals of every PBX-CORE. `BAUD` is
informational: no rule depends on it (R4, R240). -/

namespace Sys2Proof.Machine

/-- `CRC_INIT`: the checksum state after init. -/
def crcInitValue : Word32 := 0xFFFFFFFF#32

/-- `CRC_XOROUT`: what finalize XORs in. -/
def crcXorOut : Word32 := 0xFFFFFFFF#32

/-- `CRC_POLY`: the reflected polynomial. -/
def crcPoly : Word32 := 0xEDB88320#32

/-- `MAGIC`: the ASCII codes of the letters U, P, X, L (R83; general knowledge, G1, log entry 16). -/
def magic : List Byte := [0x55#8, 0x50#8, 0x58#8, 0x4C#8]

/-- `RK_WRITE`: record kind of a channel write. -/
def rkWrite : Byte := 1#8

/-- `RK_COMMIT`: record kind of a commit. -/
def rkCommit : Byte := 2#8

/-- `CH_BCAST`: the broadcast channel number. -/
def chBroadcast : Byte := 0xFF#8

/-- `KIND_DISABLED`. -/
def kindDisabled : Byte := 0#8

/-- `KIND_RGB`. -/
def kindRgb : Byte := 3#8

/-- `KIND_RGBW`. -/
def kindRgbw : Byte := 4#8

/-- `T_COMMIT_US`: the least number of microseconds between commits. -/
def tCommitUs : Nat := 310

/-- `BAUD`: the rate the transport is opened at, informational. -/
def baud : Nat := 2000000

end Sys2Proof.Machine
end

