-- ==== Sys2Proof/Machine/Channel.lean ====
section
/-! DEFINITION. The channel model (spec/41_channel.md): the validator, the placement packing, and `CH.CFG`, `CH.KIND`. -/

namespace Sys2Proof.Machine

/-- The kind codes that exist (R120). -/
def kindOk (k : Byte) : Bool := k == kindDisabled || k == kindRgb || k == kindRgbw

/-- Component width of a kind (R120). It is asked only where `kindOk` holds, and there it is the kind's own number. -/
def widthOf (k : Byte) : BitVec 3 :=
  if k == kindRgb then 3#3 else if k == kindRgbw then 4#3 else 0#3

/-- The combined bitmask test of the four offsets (R122), whatever the kind is. -/
def offsOk (r g b w : Byte) : Bool := (r ||| g ||| b ||| w) &&& 0xFC#8 == 0#8

/-- The packed placement byte (R123): red in bits 1:0, green 3:2, blue 5:4, white 7:6 (log entry 16). -/
def pack (r g b w : BitVec 2) : Byte := w ++ b ++ g ++ r

/-- What a reader of the wire unpacks (R124); the core never does. -/
def unpack (p : Byte) : BitVec 2 × BitVec 2 × BitVec 2 × BitVec 2 :=
  (p.extractLsb' 0 2, p.extractLsb' 2 2, p.extractLsb' 4 2, p.extractLsb' 6 2)

/-- The context a successful `CH.CFG` stores (R126): all eight fields. -/
def configuredContext (num kind r g b w : Byte) : ChanCtx :=
  { num := num
    kind := kind
    width := widthOf kind
    offR := r.extractLsb' 0 2
    offG := g.extractLsb' 0 2
    offB := b.extractLsb' 0 2
    offW := w.extractLsb' 0 2
    pcount := 0#16 }

/-- The context a successful `CH.KIND` leaves (R131): kind and width only. -/
def ChanCtx.withKind (c : ChanCtx) (kind : Byte) : ChanCtx := { c with kind := kind, width := widthOf kind }

/-- `CH.CFG` (R126): the checks in the order of R125, then the writes. -/
def execChCfg (ch : ChanRef) (num kind r g b w : Byte) (s : State) : Host.Outcome State Fault Refusal :=
  match s.channel ch with
  | none => s.raise .invalidArgument 0
  | some (i, _) =>
    if kindOk kind then
      if offsOk r g b w then
        .next ((s.setContext i (configuredContext num kind r g b w)).respond .ok 0)
      else s.raise .outOfRange 0
    else s.raise .unsupported 0

/-- `CH.KIND` (R131). -/
def execChKind (ch : ChanRef) (kind : Byte) (s : State) : Host.Outcome State Fault Refusal :=
  match s.channel ch with
  | none => s.raise .invalidArgument 0
  | some (i, c) =>
    if kindOk kind then .next ((s.setContext i (c.withKind kind)).respond .ok 0)
    else s.raise .unsupported 0

end Sys2Proof.Machine
end

