-- ==== Sys2Proof/Machine/Crc.lean ====
section
/-! DEFINITION. The checksum accumulator (spec/40_crc.md): its functions, and `CRC.INIT`, `CRC.UPD`, `CRC.FIN`. -/

namespace Sys2Proof.Machine

/-- The sixteen words of R100. -/
def crcTable : List Word32 :=
  [0x00000000#32, 0x1DB71064#32, 0x3B6E20C8#32, 0x26D930AC#32,
   0x76DC4190#32, 0x6B6B51F4#32, 0x4DB26158#32, 0x5005713C#32,
   0xEDB88320#32, 0xF00F9344#32, 0xD6D6A3E8#32, 0xCB61B38C#32,
   0x9B64C2B0#32, 0x86D3D2D4#32, 0xA00AE278#32, 0xBDBDF21C#32]

/-- `T[k]` (R100). -/
def crcT (k : BitVec 4) : Word32 := crcTable.getD k.toNat 0#32

/-- The nibble step (R102). -/
def crcNib (s : Word32) (n : BitVec 4) : Word32 :=
  (s >>> 4) ^^^ crcT ((s ^^^ n.setWidth 32).extractLsb' 0 4)

/-- The byte step (R103): low nibble first. -/
def crcByte (s : Word32) (b : Byte) : Word32 :=
  crcNib (crcNib s (b.extractLsb' 0 4)) (b.extractLsb' 4 4)

/-- The fold over a byte sequence, first byte first (R104). -/
def crcBytes (s : Word32) (bs : List Byte) : Word32 :=
  match bs with
  | [] => s
  | b :: rest => crcBytes (crcByte s b) rest

/-- Finalization (R104). -/
def crcFin (s : Word32) : Word32 := s ^^^ crcXorOut

/-- The checksum of a byte sequence (R104). -/
def crc32 (bs : List Byte) : Word32 := crcFin (crcBytes crcInitValue bs)

/-- One bit of the bit-serial reflected CRC (R101, R108; general knowledge G2): shift right, and XOR the polynomial in
when the outgoing bit is 1. No meaning uses it: R108 says the model's checksum equals it. -/
def crcBit (s : Word32) (x : Bool) : Word32 :=
  if s.getLsbD 0 ^^ x then (s >>> 1) ^^^ crcPoly else s >>> 1

/-- `CRC.INIT` (R105). -/
def execCrcInit (s : State) : Host.Outcome State Fault Refusal :=
  .next ({ s with crc := crcInitValue }.respond .ok crcInitValue)

/-- `CRC.UPD b` (R106). -/
def execCrcUpd (b : Byte) (s : State) : Host.Outcome State Fault Refusal :=
  .next ({ s with crc := crcByte s.crc b }.respond .ok (crcByte s.crc b))

/-- `CRC.FIN` (R107): the register is not written. -/
def execCrcFin (s : State) : Host.Outcome State Fault Refusal :=
  .next (s.respond .ok (crcFin s.crc))

end Sys2Proof.Machine
end

