-- ==== Sys2Proof/Machine/Record.lean ====
section
/-! DEFINITION. The record encoder (spec/42_record_encoder.md): pure functions from register values and operand bytes to
the bytes of a record, and the one operation that hands a record to the transport. -/

namespace Sys2Proof.Machine

/-- The six bytes of the header (R140). -/
def hdr (num rk : Byte) : List Byte := magic ++ [num, rk]

/-- The four bytes of channel_info (R141), whatever the kind is (R143). -/
def chinfo (c : ChanCtx) (n : BitVec 16) : List Byte :=
  [c.kind, pack c.offR c.offG c.offB c.offW] ++ le16 n

/-- How many pixel bytes a write reads (R144): an exact product. -/
def need (n : BitVec 16) (width : BitVec 3) : Nat := n.toNat * width.toNat

/-- The checksum trailer of a body (R146). -/
def trailer (body : List Byte) : List Byte := le32 (crc32 body)

/-- The body of a channel-write record whose payload is `payload` (R147). -/
def bodyWrite (c : ChanCtx) (n : BitVec 16) (payload : List Byte) : List Byte :=
  hdr c.num rkWrite ++ chinfo c n ++ payload

/-- The body of a commit record (R148). -/
def bodyCommit : List Byte := hdr chBroadcast rkCommit

/-- A body and its trailer: what goes on the wire (R82). -/
def record (body : List Byte) : List Byte := body ++ trailer body

/-- `enc_channel_write(c, n, pix)` (R147), defined where the buffer is long enough (R144). -/
def encChannelWrite (c : ChanCtx) (n : BitVec 16) (pix : List Byte) : Option (List Byte) :=
  match readPix pix (need n c.width) with
  | some payload => some (record (bodyWrite c n payload))
  | none => none

/-- `enc_commit()` (R148). -/
def encCommit : List Byte := record bodyCommit

/-- Hands over the record of a body; the checksum register is left holding the running state of the body, before
finalization (R149, R165, R172). -/
def State.sendRecord (s : State) (body : List Byte) : State :=
  { s.tx (record body) with crc := crcBytes crcInitValue body }

/-- The body of a record byte by byte, as R149 writes the loop: each byte handed over, then folded in. -/
def State.streamBody (s : State) (body : List Byte) : State :=
  match body with
  | [] => s
  | x :: rest => State.streamBody { s.tx [x] with crc := crcByte s.crc x } rest

/-- The trailer byte by byte (R149); the checksum register is not changed. -/
def State.streamTrailer (s : State) (ys : List Byte) : State :=
  match ys with
  | [] => s
  | y :: rest => State.streamTrailer (s.tx [y]) rest

/-- The whole record in one pass (R149). No meaning uses it: `State.sendRecord` is the meaning, and they agree. -/
def State.streamRecord (s : State) (body : List Byte) : State :=
  let s1 := State.streamBody { s with crc := crcInitValue } body
  State.streamTrailer s1 (le32 (s1.crc ^^^ crcXorOut))

end Sys2Proof.Machine
end

