-- ==== Sys2Proof/Machine/Session.lean ====
section
/-! DEFINITION. The driver session (spec/43_session.md): `S.OPEN`, `TX.WRITE`, `TX.COMMIT` with the commit gate,
`S.CLOSE`. -/

namespace Sys2Proof.Machine

/-- The commit gate (R170): at least 310 microseconds since `last`, by subtraction modulo 2^64. -/
def gateOpen (last t : Word64) : Bool := decide (tCommitUs ≤ (t - last).toNat)

/-- `S.OPEN` (R162): `Busy`, then the factory, then the clock. -/
def execSOpen (s : State) : Host.Outcome State Fault Refusal :=
  if s.linkOpen then s.raise .busy 0
  else
    match s.xportOpen with
    | (.err code, s1) => s1.raise .noDriver code
    | (.ok, s1) =>
      match s1.sampleNow with
      | none => .refused .clockNotMonotone
      | some (t, s2) =>
        .next (({ s2 with linkOpen := true, lastCommit := t }.logEvent .xOpen).respond .ok 0)

/-- `S.CLOSE` (R176). -/
def execSClose (sr : SesRef) (s : State) : Host.Outcome State Fault Refusal :=
  match sr with
  | .null => s.raise .invalidArgument 0
  | .ses =>
    if s.linkOpen then .next (({ s with linkOpen := false }.logEvent .xClose).respond .ok 0)
    else s.raise .notConnected 0

/-- `TX.WRITE` once its references are present and the link is open (R165): the record of context `i`, or the fault of
R52. -/
def State.writeChannel (s : State) (i : Nat) (c : ChanCtx) (n : BitVec 16) (pix : List Byte) :
    Host.Outcome State Fault Refusal :=
  match readPix pix (need n c.width) with
  | none => .fault .pixUnderrun
  | some payload =>
    .next (((s.sendRecord (bodyWrite c n payload)).setContext i { c with pcount := n }).respond .ok 0)

/-- `TX.WRITE` (R165): the checks in the order of R163. -/
def execTxWrite (sr : SesRef) (ch : ChanRef) (n : BitVec 16) (pix : List Byte) (s : State) :
    Host.Outcome State Fault Refusal :=
  match sr, s.channel ch with
  | .ses, some (i, c) => if s.linkOpen then s.writeChannel i c n pix else s.raise .notConnected 0
  | _, _ => s.raise .invalidArgument 0

/-- The accept step of `TX.COMMIT` (R172): the checks, once, and then the wait. It gives no response when it passes. -/
def State.commitAccept (s : State) (sr : SesRef) : Host.Outcome State Fault Refusal :=
  match sr with
  | .null => s.raise .invalidArgument 0
  | .ses => if s.linkOpen then .next { s with phase := .wait } else s.raise .notConnected 0

/-- One poll step of `TX.COMMIT` (R172): sample, and either poll again later or send the commit record, sample once
more, and answer (D24: the second sample is stored). -/
def State.commitPoll (s : State) : Host.Outcome State Fault Refusal :=
  match s.sampleNow with
  | none => .refused .clockNotMonotone
  | some (t1, s1) =>
    if gateOpen s1.lastCommit t1 then
      match (s1.sendRecord bodyCommit).sampleNow with
      | none => .refused .clockNotMonotone
      | some (t2, s2) => .next ({ s2 with lastCommit := t2, phase := .idle }.respond .ok 0)
    else .next s1

/-- `TX.COMMIT` (R172), the two-phase machine: in `IDLE` the accept step, in `WAIT` a poll step of the command already
accepted, whose checks are not made again (log entry 8). -/
def execTxCommit (sr : SesRef) (s : State) : Host.Outcome State Fault Refusal :=
  match s.phase with
  | .idle => s.commitAccept sr
  | .wait => s.commitPoll

end Sys2Proof.Machine
end

