-- ==== Sys2Proof/Machine/Dispatch.lean ====
section
/-! DEFINITION. One arm per command: each calls its own meaning. -/

namespace Sys2Proof.Machine

def exec (i : Instr) (s : State) : Host.Outcome State Fault Refusal :=
  match i with
  | .crcInit => Sys2Proof.Machine.execCrcInit s
  | .crcUpd b => Sys2Proof.Machine.execCrcUpd b s
  | .crcFin => Sys2Proof.Machine.execCrcFin s
  | .chCfg ch num kind r g b w => Sys2Proof.Machine.execChCfg ch num kind r g b w s
  | .chKind ch kind => Sys2Proof.Machine.execChKind ch kind s
  | .sOpen => Sys2Proof.Machine.execSOpen s
  | .sClose sr => Sys2Proof.Machine.execSClose sr s
  | .txWrite sr ch n pix => Sys2Proof.Machine.execTxWrite sr ch n pix s
  | .txCommit sr => Sys2Proof.Machine.execTxCommit sr s

end Sys2Proof.Machine
end

