-- ==== Sys2Proof/Decode.lean ====
section
/-! DEFINITION. Decoding a command word (spec/30_encoding.md R70 to R79) and writing one (R80). -/

namespace Sys2Proof

/-- Field `op`, bits 3:0 (R71). -/
def fieldOp (w : Word64) : BitVec 4 := w.extractLsb' 0 4

/-- Field `sv`, bit 4 (R71). -/
def fieldSv (w : Word64) : Bool := w.getLsbD 4

/-- Field `cv`, bit 5 (R71). -/
def fieldCv (w : Word64) : Bool := w.getLsbD 5

/-- Field `ctx`, bits 11:8 (R71). -/
def fieldCtx (w : Word64) : BitVec 4 := w.extractLsb' 8 4

/-- Field `a0`, bits 23:16 (R71). -/
def fieldA0 (w : Word64) : Byte := w.extractLsb' 16 8

/-- Field `a1`, bits 31:24 (R71). -/
def fieldA1 (w : Word64) : Byte := w.extractLsb' 24 8

/-- Field `ro`, bits 39:32 (R71). -/
def fieldRo (w : Word64) : Byte := w.extractLsb' 32 8

/-- Field `go`, bits 47:40 (R71). -/
def fieldGo (w : Word64) : Byte := w.extractLsb' 40 8

/-- Field `bo`, bits 55:48 (R71). -/
def fieldBo (w : Word64) : Byte := w.extractLsb' 48 8

/-- Field `wo`, bits 63:56 (R71). -/
def fieldWo (w : Word64) : Byte := w.extractLsb' 56 8

/-- `pixel_count`, bits 31:16: `a1` is its high byte and `a0` its low byte (R79). -/
def fieldCount (w : Word64) : BitVec 16 := w.extractLsb' 16 16

/-- The session reference of a word (R79). -/
def sesRefOf (w : Word64) : SesRef := if fieldSv w then .ses else .null

/-- The channel reference of a word (R79). -/
def chanRefOf (w : Word64) : ChanRef := if fieldCv w then .ctx (fieldCtx w) else .null

/-- Why a word decodes to no command. -/
inductive DecodeError where
  /-- The opcode is one R77 reserves: `0x0` or `0xA` to `0xF`. The machine answers it with `IllegalCommand`. -/
  | reservedOpcode (op : BitVec 4)
deriving DecidableEq, Repr

/-- The command a word stands for (R74), with the pixel buffer presented beside it, which only `TX.WRITE` takes
(R54). Total: every word is a command or a reserved opcode. -/
def decode (w : Word64) (pix : List Byte) : Except DecodeError Instr :=
  match (fieldOp w).toNat with
  | 1 => .ok .crcInit
  | 2 => .ok (.crcUpd (fieldA0 w))
  | 3 => .ok .crcFin
  | 4 => .ok (.chCfg (chanRefOf w) (fieldA0 w) (fieldA1 w) (fieldRo w) (fieldGo w) (fieldBo w) (fieldWo w))
  | 5 => .ok (.chKind (chanRefOf w) (fieldA1 w))
  | 6 => .ok .sOpen
  | 7 => .ok (.sClose (sesRefOf w))
  | 8 => .ok (.txWrite (sesRefOf w) (chanRefOf w) (fieldCount w) pix)
  | 9 => .ok (.txCommit (sesRefOf w))
  | _ => .error (.reservedOpcode (fieldOp w))

/-- The instruction in `nbits` bits of `w`, bit 0 the least significant of the word; every higher bit is 0, and the
pixel buffer beside it is empty. -/
def decodeTableWord (nbits w : Nat) : Option Instr :=
  match decode (BitVec.ofNat 64 (w % 2 ^ nbits)) [] with
  | .ok i => some i
  | .error _ => none

/-! ## The encoder -/

/-- The opcode of a command (R74). -/
def Instr.opcode (i : Instr) : BitVec 4 :=
  match i with
  | .crcInit => 1#4
  | .crcUpd _ => 2#4
  | .crcFin => 3#4
  | .chCfg _ _ _ _ _ _ _ => 4#4
  | .chKind _ _ => 5#4
  | .sOpen => 6#4
  | .sClose _ => 7#4
  | .txWrite _ _ _ _ => 8#4
  | .txCommit _ => 9#4

/-- The bit `sv` of a session reference (R80). -/
def SesRef.bit (r : SesRef) : BitVec 1 :=
  match r with
  | .null => 0#1
  | .ses => 1#1

/-- The bit `cv` of a channel reference (R80). -/
def ChanRef.validBit (r : ChanRef) : BitVec 1 :=
  match r with
  | .null => 0#1
  | .ctx _ => 1#1

/-- The field `ctx` of a channel reference, 0 for the absent one (R80). -/
def ChanRef.index (r : ChanRef) : BitVec 4 :=
  match r with
  | .null => 0#4
  | .ctx i => i

/-- The fields of R71 put together, each at its place, `rsv1` and `rsv0` zero (spec/95_test_vectors.md B.2). -/
def packWord (op : BitVec 4) (sv cv : BitVec 1) (ctx : BitVec 4) (a0 a1 ro go bo wo : Byte) : Word64 :=
  op.setWidth 64 ||| sv.setWidth 64 <<< 4 ||| cv.setWidth 64 <<< 5 ||| ctx.setWidth 64 <<< 8
    ||| a0.setWidth 64 <<< 16 ||| a1.setWidth 64 <<< 24 ||| ro.setWidth 64 <<< 32 ||| go.setWidth 64 <<< 40
    ||| bo.setWidth 64 <<< 48 ||| wo.setWidth 64 <<< 56

/-- The command word of a command, zero in every field its format ignores (R72, R80). -/
def encodeWord (i : Instr) : Word64 :=
  match i with
  | .crcInit => packWord 1#4 0 0 0 0 0 0 0 0 0
  | .crcUpd b => packWord 2#4 0 0 0 b 0 0 0 0 0
  | .crcFin => packWord 3#4 0 0 0 0 0 0 0 0 0
  | .chCfg ch num kind r g b w => packWord 4#4 0 ch.validBit ch.index num kind r g b w
  | .chKind ch kind => packWord 5#4 0 ch.validBit ch.index 0 kind 0 0 0 0
  | .sOpen => packWord 6#4 0 0 0 0 0 0 0 0 0
  | .sClose sr => packWord 7#4 sr.bit 0 0 0 0 0 0 0 0
  | .txWrite sr ch n _ =>
    packWord 8#4 sr.bit ch.validBit ch.index (n.extractLsb' 0 8) (n.extractLsb' 8 8) 0 0 0 0
  | .txCommit sr => packWord 9#4 sr.bit 0 0 0 0 0 0 0 0

/-- What the host presents for a command: its word, and the pixel buffer of a `TX.WRITE` (R70, R80). -/
def encode (i : Instr) : PortCommand :=
  match i with
  | .txWrite sr ch n pix => ⟨encodeWord (.txWrite sr ch n pix), pix⟩
  | .crcInit => ⟨encodeWord .crcInit, []⟩
  | .crcUpd b => ⟨encodeWord (.crcUpd b), []⟩
  | .crcFin => ⟨encodeWord .crcFin, []⟩
  | .chCfg ch num kind r g b w => ⟨encodeWord (.chCfg ch num kind r g b w), []⟩
  | .chKind ch kind => ⟨encodeWord (.chKind ch kind), []⟩
  | .sOpen => ⟨encodeWord .sOpen, []⟩
  | .sClose sr => ⟨encodeWord (.sClose sr), []⟩
  | .txCommit sr => ⟨encodeWord (.txCommit sr), []⟩

end Sys2Proof
end

