-- ==== Sys2Proof/Machine/Fetch.lean ====
section
/-! DEFINITION. What the core does next (spec/30_encoding.md R73, R77): there is no program counter, and the next command
is the head of the host's list (R31). -/

namespace Sys2Proof.Machine

/-- What stands before `exec`: an instruction to run on a state, or a step that runs none. -/
inductive Fetched where
  | run (i : Instr) (s : State)
  | done (s : State)
deriving DecidableEq, Repr

/-- In `WAIT` the port accepts nothing and the waiting `TX.COMMIT` goes on (R30, R73). In `IDLE` the next action of the
host is taken: a reset (R220), or a command, a reserved one answered with `IllegalCommand` (R77). With nothing
presented the core does nothing (R194). -/
def State.fetch (s : State) : Fetched :=
  match s.phase with
  | .wait => .run (.txCommit .ses) s
  | .idle =>
    match s.port with
    | [] => .done s
    | .reset :: rest => .done { s with port := rest }.assertReset
    | .command c :: rest =>
      match decode c.word c.pix with
      | .ok i => .run i { s with port := rest }
      | .error _ => .done ({ s with port := rest }.respond .illegalCommand 0)

/-- `c` presented as the very next command, the port ready for it, with an `ok` answer and a sample of the clock at
hand where none is listed, so that a command that asks for them runs on plain data (log entry 2). -/
def State.present (s : State) (c : PortCommand) : State :=
  { s with
    phase := .idle
    port := .command c :: s.port
    answers := if s.answers.isEmpty then [.ok] else s.answers
    samples := if s.samples.isEmpty then [s.clkSeen] else s.samples }

end Sys2Proof.Machine
end

