-- ==== Sys2Proof/Machine/Step.lean ====
section
/-! DEFINITION. One step of the machine: what the port gives next, and its meaning. -/

namespace Sys2Proof.Machine

/-- One step. -/
def step (s : State) : Host.Outcome State Fault Refusal :=
  match s.fetch with
  | .run i t => exec i t
  | .done t => .next t

/-- `s` with the command word `w` presented as the next command (log entry 2); its pixel buffer is empty. -/
def State.withFetchWord (s : State) (nbits w : Nat) : State :=
  s.present ⟨BitVec.ofNat 64 (w % 2 ^ nbits), []⟩

end Sys2Proof.Machine
end

