-- ==== Sys2Proof/WellFormed.lean ====
section
/-! DEFINITION. Well-formed port commands. The operands of an `Instr` are in range by their types, so what can be
ill-formed is a command as the host presents it: a word that is not one the assembler of spec/30_encoding.md R80 writes,
or a pixel buffer beside a command that has none. The hardware runs ill-formed commands too (R77, R78); the check
singles out the ONE word each command has. -/

namespace Sys2Proof

/-- The bits of the command word that a command decodes (R72), by opcode: format N, B, S, K, C or W. A reserved
opcode decodes only the opcode (R77). -/
def usedMask (op : BitVec 4) : Word64 :=
  match op.toNat with
  | 2 => 0x0000000000FF000F#64
  | 4 => 0xFFFFFFFFFFFF0F2F#64
  | 5 => 0x00000000FF000F2F#64
  | 7 => 0x000000000000001F#64
  | 8 => 0x00000000FFFF0F3F#64
  | 9 => 0x000000000000001F#64
  | _ => 0x000000000000000F#64

/-- The opcode is one R74 gives a command. -/
def opcodeAssigned (w : Word64) : Bool :=
  decide (1 ≤ (w.extractLsb' 0 4).toNat ∧ (w.extractLsb' 0 4).toNat ≤ 9)

/-- Every field the command's format does not list is zero, `rsv0` and `rsv1` among them (R78, R80). -/
def ignoredFieldsZero (w : Word64) : Bool :=
  w &&& ~~~ usedMask (w.extractLsb' 0 4) == 0#64

/-- An absent channel reference is written `cv = 0, ctx = 0` (R80). -/
def absentChannelZero (w : Word64) : Bool :=
  w.getLsbD 5 || w.extractLsb' 8 4 == 0#4

/-- Only `TX.WRITE` (opcode 8) has a pixel operand buffer (R54). -/
def pixOnlyWithWrite (c : PortCommand) : Bool :=
  c.word.extractLsb' 0 4 == 8#4 || c.pix.isEmpty

/-- The command is written as the assembler of R80 writes it. -/
def PortCommand.wf (c : PortCommand) : Bool :=
  opcodeAssigned c.word && ignoredFieldsZero c.word && absentChannelZero c.word && pixOnlyWithWrite c

end Sys2Proof
end

