-- ==== Sys2Proof/Safety.lean ====
section
/-! DEFINITION. What a safe run is, in the terms the statements use: the invariant of spec/10_state.md R36, the table of
R41, the statuses of spec/60_exceptions.md R191, runs and final states (spec/70_reset_and_hazards.md R241). -/

namespace Sys2Proof.Machine

/-! ## The invariant (R36) -/

/-- R36 (a) and (b): a legal kind, and the width that kind has. -/
def CtxLegal (c : ChanCtx) : Prop :=
  (c.kind = 0#8 ∨ c.kind = 3#8 ∨ c.kind = 4#8) ∧ c.width.toNat = c.kind.toNat

/-- R36 (e): reads a trace from a link that is closed (`false`) or open (`true`). None when an event stands where it may
not: `XOpen` on an open link, a byte or `XClose` on a closed one. Otherwise the link after the last event. -/
def linkAfter (link : Bool) (events : List XEvent) : Option Bool :=
  match events with
  | [] => some link
  | .xOpen :: rest => if link then none else linkAfter true rest
  | .xByte _ :: rest => if link then linkAfter true rest else none
  | .xClose :: rest => if link then linkAfter false rest else none

/-- `tx_bytes` (R35): the bytes on the wire. -/
def txBytes (events : List XEvent) : List Byte :=
  match events with
  | [] => []
  | .xByte b :: rest => b :: txBytes rest
  | .xOpen :: rest => txBytes rest
  | .xClose :: rest => txBytes rest

/-- One of the two forms of record, R147 from a legal context and R148. -/
def IsRecord (bs : List Byte) : Prop :=
  bs = encCommit ∨ ∃ c n pix, CtxLegal c ∧ encChannelWrite c n pix = some bs

/-- R36 (f): a concatenation of whole records. -/
def WholeRecords (bs : List Byte) : Prop :=
  ∃ rs : List (List Byte), bs = rs.flatten ∧ ∀ r ∈ rs, IsRecord r

/-- What holds of every state a run reaches (R36), with the size of the context file (R5) and the open link of a waiting
commit (R30, R172). -/
structure MachineInv (s : State) : Prop where
  size    : 1 ≤ s.ctx.length ∧ s.ctx.length ≤ 16
  legal   : ∀ c ∈ s.ctx, CtxLegal c
  trace   : linkAfter false s.xlog = some s.linkOpen
  records : WholeRecords (txBytes s.xlog)
  clock   : s.lastCommit ≤ s.clkSeen
  waiting : s.phase = .wait → s.linkOpen = true

/-- A response word as R75 and R76 form it: zeros in bits 31:4, a status of the table. -/
def LegalResponse (w : Word64) : Prop := w.extractLsb' 4 28 = 0#28 ∧ (rspStatus w).toNat ≤ 7

/-! ## What a command may touch (R41) and answer (R191) -/

/-- Column `crc` of R41, the entries with w. -/
def writesCrc (i : Instr) : Bool :=
  match i with
  | .crcInit => true
  | .crcUpd _ => true
  | .crcFin => false
  | .chCfg _ _ _ _ _ _ _ => false
  | .chKind _ _ => false
  | .sOpen => false
  | .sClose _ => false
  | .txWrite _ _ _ _ => true
  | .txCommit _ => true

/-- Column `ctx[i]` of R41, the entries with w: the index the command may write. -/
def writesContext (i : Instr) : Option Nat :=
  match i with
  | .crcInit => none
  | .crcUpd _ => none
  | .crcFin => none
  | .chCfg (.ctx k) _ _ _ _ _ _ => some k.toNat
  | .chCfg .null _ _ _ _ _ _ => none
  | .chKind (.ctx k) _ => some k.toNat
  | .chKind .null _ => none
  | .sOpen => none
  | .sClose _ => none
  | .txWrite _ (.ctx k) _ _ => some k.toNat
  | .txWrite _ .null _ _ => none
  | .txCommit _ => none

/-- Column `link_open` of R41, the entries with w. -/
def writesLink (i : Instr) : Bool :=
  match i with
  | .crcInit => false
  | .crcUpd _ => false
  | .crcFin => false
  | .chCfg _ _ _ _ _ _ _ => false
  | .chKind _ _ => false
  | .sOpen => true
  | .sClose _ => true
  | .txWrite _ _ _ _ => false
  | .txCommit _ => false

/-- Columns `last_commit` and clock of R41: the commands that write the one and sample the other. -/
def usesClock (i : Instr) : Bool :=
  match i with
  | .crcInit => false
  | .crcUpd _ => false
  | .crcFin => false
  | .chCfg _ _ _ _ _ _ _ => false
  | .chKind _ _ => false
  | .sOpen => true
  | .sClose _ => false
  | .txWrite _ _ _ _ => false
  | .txCommit _ => true

/-- Column `xlog` of R41, the entries with w. -/
def writesTrace (i : Instr) : Bool :=
  match i with
  | .crcInit => false
  | .crcUpd _ => false
  | .crcFin => false
  | .chCfg _ _ _ _ _ _ _ => false
  | .chKind _ _ => false
  | .sOpen => true
  | .sClose _ => true
  | .txWrite _ _ _ _ => true
  | .txCommit _ => true

/-- The table of R191: the statuses a command can return. -/
def statusesOf (i : Instr) : List Status :=
  match i with
  | .crcInit => [.ok]
  | .crcUpd _ => [.ok]
  | .crcFin => [.ok]
  | .chCfg _ _ _ _ _ _ _ => [.ok, .invalidArgument, .unsupported, .outOfRange]
  | .chKind _ _ => [.ok, .invalidArgument, .unsupported]
  | .sOpen => [.ok, .noDriver, .busy]
  | .sClose _ => [.ok, .invalidArgument, .notConnected]
  | .txWrite _ _ _ _ => [.ok, .invalidArgument, .notConnected]
  | .txCommit _ => [.ok, .invalidArgument, .notConnected]

/-- The two states hold the same in every register of R20, the output trace among them. -/
def SameRegisters (s t : State) : Prop :=
  t.crc = s.crc ∧ t.ctx = s.ctx ∧ t.linkOpen = s.linkOpen ∧ t.lastCommit = s.lastCommit ∧
    t.phase = s.phase ∧ t.xlog = s.xlog

/-- The channel reference is absent (R79). -/
def ChannelAbsent (s : State) (ch : ChanRef) : Prop :=
  ch = .null ∨ ∃ i, ch = .ctx i ∧ s.ctx.length ≤ i.toNat

/-- The channel reference is present and names the context `c` at index `k` (R79). -/
def ChannelIs (s : State) (ch : ChanRef) (k : Nat) (c : ChanCtx) : Prop :=
  ∃ i, ch = .ctx i ∧ i.toNat = k ∧ s.ctx[k]? = some c

/-! ## Runs (R241) -/

/-- `k` steps, stopping at the first fault or refusal. -/
def runSteps (k : Nat) (s : State) : Host.Outcome State Fault Refusal :=
  match k with
  | 0 => .next s
  | k + 1 =>
    match step s with
    | .next t => runSteps k t
    | .fault r => .fault r
    | .refused r => .refused r

/-- A final state (R241): every command of the list has its response, and nothing is waiting. -/
def Final (s : State) : Prop := s.port = [] ∧ s.phase = .idle

/-- Each sample of the list is at least the one before it, the first at least `seen` (R33). -/
def MonotoneFrom (seen : Word64) (ts : List Word64) : Prop :=
  match ts with
  | [] => True
  | t :: rest => seen ≤ t ∧ MonotoneFrom t rest

/-! ## Waiting, hanging, and the clock's fairness (R175) -/

/-- The commit that waits in `s` is still waiting after each of the first `k` steps. -/
def WaitsFor (k : Nat) (s : State) : Prop := ∀ j, j ≤ k → ∃ u, runSteps j s = .next u ∧ u.phase = .wait

/-- A hang (R175): the commit waits for ever. -/
def Hangs (s : State) : Prop := ∀ k, WaitsFor k s

/-- No sample of an endless clock is smaller than the one before it (R33). -/
def ClockMonotone (clock : Nat → Word64) : Prop := ∀ k, clock k ≤ clock (k + 1)

/-- The fairness assumption of R175 on an endless clock: every bound is eventually exceeded, from every draw on. The
bounds are those a 64-bit clock that does not wrap (R33) can exceed (log entry 21). -/
def ClockFair (clock : Nat → Word64) : Prop :=
  ∀ bound start : Nat, bound < 2 ^ 64 - 1 → ∃ k, start ≤ k ∧ bound < (clock k).toNat

/-- The same of the clock the model draws from past the listed samples. An assumption about the environment: nothing
establishes it, since the clock is a free value (log entries 6 and 21). -/
def FreeClockFair : Prop := ClockFair Config.freeSample

end Sys2Proof.Machine
end

