-- ==== Sys2Proof/Certificates/Slice0/Obligations.lean ====
section
/-! DEFINITION. The statements about PBX-CORE for the provers, each with the rule of spec/ it formalises. -/

open Sys2Proof Sys2Proof.Machine

/-! ## Encoding (spec/30_encoding.md) -/

/-- R71, R72, R74, R79, R80: every command, at every value of its operands, is read back from the word and the buffer it
is written as, and what is written is well formed. -/
def Obligations.EncodeThenDecodeGivesTheCommand : Prop :=
  ∀ i : Instr, decode (encode i).word (encode i).pix = .ok i ∧ (encode i).wf = true

/-- R71, R72, R74, R78, R80: a well-formed command is the encoding of exactly the command it decodes to. -/
def Obligations.WellFormedCommandHasOneInstruction : Prop :=
  ∀ c : PortCommand, c.wf = true → ∃ i, decode c.word c.pix = .ok i ∧ encode i = c

/-- R78: two words that agree on the opcode and on the fields its format lists make an idle core do the same, and the
assembler writes zero in every field the format does not list. -/
def Obligations.IgnoredFieldsChangeNothing : Prop :=
  (∀ (s : State) (w v : Word64) (pix : List Byte) (rest : List HostAction),
    s.phase = .idle → (w ^^^ v) &&& usedMask (fieldOp w) = 0#64 →
    step { s with port := .command ⟨w, pix⟩ :: rest } = step { s with port := .command ⟨v, pix⟩ :: rest }) ∧
  ∀ i : Instr, (encode i).word &&& ~~~ usedMask i.opcode = 0#64

/-- R77: a reserved opcode is answered `IllegalCommand` with data 0, and nothing else happens. -/
def Obligations.ReservedOpcodeIsAnsweredIllegalCommand : Prop :=
  ∀ (s : State) (c : PortCommand) (rest : List HostAction),
    s.phase = .idle → s.port = .command c :: rest →
    (c.word.extractLsb' 0 4 = 0#4 ∨ 10 ≤ (c.word.extractLsb' 0 4).toNat) →
    step s = .next { s with port := rest, rsps := s.rsps ++ [0x7#64] }

/-- R71, R72, R74: words written out from the field table, one of each format, decode to the commands they stand
for. -/
def Obligations.WordsOfTheFieldTableDecode : Prop :=
  decode 0x0000000000000001#64 [] = .ok .crcInit ∧
  decode 0x0000000000610002#64 [] = .ok (.crcUpd 0x61#8) ∧
  decode 0x0302000104020124#64 [] = .ok (.chCfg (.ctx 1#4) 2#8 4#8 1#8 0#8 2#8 3#8) ∧
  decode 0x0000000004000025#64 [] = .ok (.chKind (.ctx 0#4) 4#8) ∧
  decode 0x0000000001020038#64 [9#8] = .ok (.txWrite .ses (.ctx 0#4) 258#16 [9#8]) ∧
  decode 0x0000000000000019#64 [] = .ok (.txCommit .ses)

/-! ## The step (spec/30_encoding.md R73, spec/70_reset_and_hazards.md) -/

/-- R31, R62, R73: an idle core runs the command at the head of the host's list, which leaves the list. -/
def Obligations.StepRunsTheDecodedCommand : Prop :=
  ∀ (s : State) (c : PortCommand) (rest : List HostAction) (i : Instr),
    s.phase = .idle → s.port = .command c :: rest → decode c.word c.pix = .ok i →
    step s = exec i { s with port := rest }

/-- R30, R73: while a commit waits a step is a poll of it (one poll a step is the model's choice, log entry 8), and the
port gives up nothing. -/
def Obligations.WaitingCoreAcceptsNothing : Prop :=
  ∀ s : State, s.phase = .wait →
    step s = exec (.txCommit .ses) s ∧ ∀ t, step s = .next t → t.port = s.port

/-- R194, R241: a final state stays as it is, since the core never acts unless commanded (that a step is then a stutter is
the model's choice, log entry 12). -/
def Obligations.FinalStateStays : Prop := ∀ s : State, Final s → step s = .next s

/-- R40: the value of every register after reset, for any number of contexts, and the machine's own reset state is the
one of a number R5 allows. -/
def Obligations.ResetGivesEveryRegisterItsValue : Prop :=
  (∀ n : Nat, (State.resetWith n).crc = 0xFFFFFFFF#32 ∧ (State.resetWith n).ctx.length = n ∧
    (∀ (i : Nat) (c : ChanCtx), (State.resetWith n).ctx[i]? = some c →
      c.num = 0#8 ∧ c.kind = 0#8 ∧ c.width = 0#3 ∧ c.offR = 0#2 ∧ c.offG = 0#2 ∧ c.offB = 0#2 ∧ c.offW = 0#2 ∧
        c.pcount = 0#16) ∧
    (State.resetWith n).linkOpen = false ∧ (State.resetWith n).lastCommit = 0#64 ∧
    (State.resetWith n).phase = .idle ∧ (State.resetWith n).xlog = []) ∧
  ∃ n : Nat, 1 ≤ n ∧ n ≤ 16 ∧ State.reset = State.resetWith n

/-- R220, R221, R40: a reset the host asserts between commands puts every register at its reset value, and leaves the
clock, the factory, the responses already given and the rest of the host's list (log entry 10). -/
def Obligations.HostResetReloadsTheRegisters : Prop :=
  ∀ (s : State) (rest : List HostAction), s.phase = .idle → s.port = .reset :: rest →
    step s = .next { s with
      crc := 0xFFFFFFFF#32, ctx := List.replicate s.ctx.length ⟨0, 0, 0, 0, 0, 0, 0, 0⟩, linkOpen := false,
      lastCommit := 0#64, phase := .idle, xlog := [], port := rest }

/-! ## The checksum (spec/40_crc.md) -/

/-- R100, R101: each entry of the table is four bit-serial steps from its index. -/
def Obligations.CrcTableComesFromThePolynomial : Prop :=
  ∀ k : BitVec 4, crcT k = crcBit (crcBit (crcBit (crcBit (k.setWidth 32) false) false) false) false

/-- R103, R108: a byte step is eight bit-serial steps, bit 0 of the byte first, from every state. -/
def Obligations.ByteStepIsEightBitSteps : Prop :=
  ∀ (s : Word32) (b : Byte),
    crcByte s b = (List.range 8).foldl (fun acc i => crcBit acc (b.getLsbD i)) s

/-- R109: for each byte the byte step is a bijection on the states. -/
def Obligations.ByteStepIsABijection : Prop := ∀ b : Byte, Function.Bijective fun s : Word32 => crcByte s b

/-- R105, R106, R107: the three commands always complete, with these results and no other effect. -/
def Obligations.CrcCommandsComplete : Prop :=
  ∀ (s : State) (b : Byte),
    exec .crcInit s = .next { s with crc := 0xFFFFFFFF#32, rsps := s.rsps ++ [0xFFFFFFFF00000000#64] } ∧
    exec (.crcUpd b) s = .next { s with
      crc := crcByte s.crc b, rsps := s.rsps ++ [(crcByte s.crc b).setWidth 64 <<< 32] } ∧
    exec .crcFin s = .next { s with rsps := s.rsps ++ [(s.crc ^^^ 0xFFFFFFFF#32).setWidth 64 <<< 32] }

/-- R104, R106: folding a byte sequence is one `CRC.UPD` a byte, in byte order, whatever the sequence. -/
def Obligations.CrcUpdSequenceFoldsTheBytes : Prop :=
  ∀ (bs : List Byte) (s : State) (rest : List HostAction),
    s.phase = .idle → s.port = bs.map (fun b => .command (encode (.crcUpd b))) ++ rest →
    ∃ rs, runSteps bs.length s = .next { s with crc := crcBytes s.crc bs, port := rest, rsps := s.rsps ++ rs } ∧
      rs.length = bs.length ∧
      ∀ k, k < bs.length → rs[k]? = some ((crcBytes s.crc (bs.take (k + 1))).setWidth 64 <<< 32)

/-- R81, R104: `CRC.INIT`, one `CRC.UPD` a byte, `CRC.FIN` give the checksum of the bytes as the last response. -/
def Obligations.ChecksumOfBytesThroughThePort : Prop :=
  ∀ (bs : List Byte) (s : State) (rest : List HostAction),
    s.phase = .idle →
    s.port = .command (encode .crcInit) :: bs.map (fun b => .command (encode (.crcUpd b))) ++
      .command (encode .crcFin) :: rest →
    ∃ rs, runSteps (bs.length + 2) s = .next { s with
        crc := crcBytes 0xFFFFFFFF#32 bs, port := rest,
        rsps := s.rsps ++ rs ++ [(crc32 bs).setWidth 64 <<< 32] } ∧
      rs.length = bs.length + 1

/-- R107: after a command that sent a record, `CRC.FIN` returns the checksum whose bytes ended it. -/
def Obligations.CrcFinReturnsTheRecordsChecksum : Prop :=
  ∀ (i : Instr) (s t : State), exec i s = .next t →
    ((∃ sr ch n pix, i = .txWrite sr ch n pix) ∨ ∃ sr, i = .txCommit sr) → t.xlog ≠ s.xlog →
    ∃ (body : List Byte) (sum : Word32), t.xlog = s.xlog ++ (body ++ [sum.extractLsb' 0 8, sum.extractLsb' 8 8, sum.extractLsb' 16 8,
        sum.extractLsb' 24 8]).map .xByte ∧ sum = crc32 body ∧
      exec .crcFin t = .next { t with rsps := t.rsps ++ [sum.setWidth 64 <<< 32] }

/-! ## The channel model (spec/41_channel.md) -/

/-- R122: the combined bitmask test holds exactly when each of the four offsets is at most 3. -/
def Obligations.OffsetTestIsEachAtMostThree : Prop :=
  ∀ r g b w : Byte, offsOk r g b w = true ↔ r.toNat ≤ 3 ∧ g.toNat ≤ 3 ∧ b.toNat ≤ 3 ∧ w.toNat ≤ 3

/-- R123, R124: the placement byte is `r + 4g + 16b + 64w`, and unpacks to the four offsets. The order of the fields is
PRESUMED, log entry 16, and that unpacking undoes packing is the spec's inference (R124, "[derived: from rule R123]"). -/
def Obligations.PlacementByteUnpacks : Prop :=
  ∀ r g b w : BitVec 2, (pack r g b w).toNat = r.toNat + 4 * g.toNat + 16 * b.toNat + 64 * w.toNat ∧
    unpack (pack r g b w) = (r, g, b, w)

/-- R125, R126: `CH.CFG` reports the first check that fails and changes nothing, or stores all eight fields. -/
def Obligations.ChCfgStoresOrReports : Prop :=
  ∀ (s : State) (ch : ChanRef) (num kind r g b w : Byte),
    (ChannelAbsent s ch → exec (.chCfg ch num kind r g b w) s = .next { s with rsps := s.rsps ++ [1#64] }) ∧
    ∀ k c, ChannelIs s ch k c →
      (¬ (kind = 0#8 ∨ kind = 3#8 ∨ kind = 4#8) →
        exec (.chCfg ch num kind r g b w) s = .next { s with rsps := s.rsps ++ [3#64] }) ∧
      ((kind = 0#8 ∨ kind = 3#8 ∨ kind = 4#8) →
        ¬ (r.toNat ≤ 3 ∧ g.toNat ≤ 3 ∧ b.toNat ≤ 3 ∧ w.toNat ≤ 3) →
        exec (.chCfg ch num kind r g b w) s = .next { s with rsps := s.rsps ++ [4#64] }) ∧
      ((kind = 0#8 ∨ kind = 3#8 ∨ kind = 4#8) →
        (r.toNat ≤ 3 ∧ g.toNat ≤ 3 ∧ b.toNat ≤ 3 ∧ w.toNat ≤ 3) →
        exec (.chCfg ch num kind r g b w) s = .next { s with
          ctx := s.ctx.set k
            { num := num, kind := kind, width := BitVec.ofNat 3 kind.toNat, offR := BitVec.ofNat 2 r.toNat,
              offG := BitVec.ofNat 2 g.toNat, offB := BitVec.ofNat 2 b.toNat, offW := BitVec.ofNat 2 w.toNat,
              pcount := 0#16 },
          rsps := s.rsps ++ [0#64] })

/-- R131: `CH.KIND` reports the first check that fails and changes nothing, or writes kind and width and keeps the
number, the offsets and the count. -/
def Obligations.ChKindStoresOrReports : Prop :=
  ∀ (s : State) (ch : ChanRef) (kind : Byte),
    (ChannelAbsent s ch → exec (.chKind ch kind) s = .next { s with rsps := s.rsps ++ [1#64] }) ∧
    ∀ k c, ChannelIs s ch k c →
      (¬ (kind = 0#8 ∨ kind = 3#8 ∨ kind = 4#8) →
        exec (.chKind ch kind) s = .next { s with rsps := s.rsps ++ [3#64] }) ∧
      ((kind = 0#8 ∨ kind = 3#8 ∨ kind = 4#8) →
        exec (.chKind ch kind) s = .next { s with
          ctx := s.ctx.set k { c with kind := kind, width := BitVec.ofNat 3 kind.toNat },
          rsps := s.rsps ++ [0#64] })

/-! ## The record encoder (spec/42_record_encoder.md) -/

/-- R148, R100 to R104: the body of the commit record, the record itself, its checksum, and the running state before
finalization. The bytes of the magic and the table of the checksum are PRESUMED, log entry 16, and the two checksum values
are the spec's inference (R148, "[derived: computed]"). -/
def Obligations.CommitRecordIsTheConstant : Prop :=
  bodyCommit = [0x55#8, 0x50#8, 0x58#8, 0x4C#8, 0xFF#8, 0x02#8] ∧
  encCommit = [0x55#8, 0x50#8, 0x58#8, 0x4C#8, 0xFF#8, 0x02#8, 0x9B#8, 0x38#8, 0x81#8, 0xDF#8] ∧
  crc32 bodyCommit = 0xDF81389B#32 ∧
  crcBytes 0xFFFFFFFF#32 bodyCommit = 0x207EC764#32

/-- R82 to R88, R144: where each field of a channel-write record stands, its length, and when there is one. -/
def Obligations.ChannelWriteRecordLayout : Prop :=
  ∀ (c : ChanCtx) (n : BitVec 16) (pix : List Byte),
    (encChannelWrite c n pix = none ↔ pix.length < n.toNat * c.width.toNat) ∧
    ∀ bs, encChannelWrite c n pix = some bs →
      bs.length = 14 + n.toNat * c.width.toNat ∧
      bs.take 6 = [0x55#8, 0x50#8, 0x58#8, 0x4C#8, c.num, 0x01#8] ∧
      bs[6]? = some c.kind ∧ bs[7]? = some (c.offW ++ c.offB ++ c.offG ++ c.offR) ∧
      bs[8]? = some (n.extractLsb' 0 8) ∧ bs[9]? = some (n.extractLsb' 8 8) ∧
      (∀ k, k < n.toNat * c.width.toNat → bs[10 + k]? = pix[k]?) ∧
      ∃ sum, sum = crc32 (bs.take (10 + n.toNat * c.width.toNat)) ∧
        bs.drop (10 + n.toNat * c.width.toNat) =
          [sum.extractLsb' 0 8, sum.extractLsb' 8 8, sum.extractLsb' 16 8, sum.extractLsb' 24 8]

/-- R149: handing a record over byte by byte, folding each byte of the body in, ends as sending the encoded record
does, in every register. -/
def Obligations.StreamingAgreesWithTheEncoder : Prop :=
  ∀ (s : State) (body : List Byte), s.streamRecord body = s.sendRecord body

/-! ## The session (spec/43_session.md) -/

/-- R162: `S.OPEN` is refused while a session is open, reports the factory's code, or opens the session, for every
answer and every sample that is drawn (how they are drawn is the model's choice, log entries 5 to 7). -/
def Obligations.SOpenOpensOrReports : Prop :=
  ∀ s : State,
    (s.linkOpen = true → exec .sOpen s = .next { s with rsps := s.rsps ++ [6#64] }) ∧
    (s.linkOpen = false → ∀ code s1, s.xportOpen = (.err code, s1) →
      exec .sOpen s = .next { s with
        answers := s1.answers, draws := s1.draws, rsps := s.rsps ++ [code.setWidth 64 <<< 32 ||| 5#64] }) ∧
    (s.linkOpen = false → ∀ s1 now s2, s.xportOpen = (.ok, s1) → s1.sampleNow = some (now, s2) →
      exec .sOpen s = .next { s with
        linkOpen := true, lastCommit := now, xlog := s.xlog ++ [.xOpen], answers := s1.answers,
        samples := s2.samples, clkSeen := now, draws := s2.draws, rsps := s.rsps ++ [0#64] })

/-- R162, R33, R34: with a closed link, `ok` the next listed answer and a listed sample not smaller than any before it,
`S.OPEN` opens the session at that sample (the two lists are the model's choice, log entries 5 and 7). -/
def Obligations.SOpenRunsOnListedInputs : Prop :=
  ∀ (s : State) (as : List OpenAnswer) (now : Word64) (rest : List Word64),
    s.linkOpen = false → s.answers = .ok :: as → s.samples = now :: rest → s.clkSeen ≤ now →
    exec .sOpen s = .next { s with
      linkOpen := true, lastCommit := now, xlog := s.xlog ++ [.xOpen], answers := as, samples := rest,
      clkSeen := now, rsps := s.rsps ++ [0#64] }

/-- R33: what a draw of the clock gives: the next listed sample if it is not smaller than an earlier one, none if it is,
and past the list some value not smaller than the largest so far (the list and the ghost are the model's choice, log
entries 5 and 6). -/
def Obligations.ClockDrawIsMonotone : Prop :=
  ∀ s : State,
    (∀ now rest, s.samples = now :: rest → s.clkSeen ≤ now →
      s.sampleNow = some (now, { s with samples := rest, clkSeen := now })) ∧
    (∀ now rest, s.samples = now :: rest → now < s.clkSeen → s.sampleNow = none) ∧
    (s.samples = [] → ∃ now, s.clkSeen ≤ now ∧
      s.sampleNow = some (now, { s with clkSeen := now, draws := s.draws + 1 }))

/-- R33, U10: a listed sample smaller than an earlier one has no move: `S.OPEN` and both samples of a poll of
`TX.COMMIT` refuse it by name (the refusal is the model's choice, log entry 5). -/
def Obligations.DecreasingSampleIsRefused : Prop :=
  (∀ (s : State) as now rest, s.linkOpen = false → s.answers = .ok :: as → s.samples = now :: rest →
    now < s.clkSeen → exec .sOpen s = .refused .clockNotMonotone) ∧
  (∀ (s : State) sr now rest, s.phase = .wait → s.samples = now :: rest → now < s.clkSeen →
    exec (.txCommit sr) s = .refused .clockNotMonotone) ∧
  ∀ (s : State) sr t1 t2 rest, s.phase = .wait → s.samples = t1 :: t2 :: rest → s.clkSeen ≤ t1 →
    310 ≤ (t1 - s.lastCommit).toNat → t2 < t1 → exec (.txCommit sr) s = .refused .clockNotMonotone

/-- R52, R163, R165: `TX.WRITE` reports an absent reference, then a closed link, faults on too short a buffer, or sends
the record, stores its running checksum and the count, and answers. -/
def Obligations.TxWriteSendsOrReports : Prop :=
  ∀ (s : State) (sr : SesRef) (ch : ChanRef) (n : BitVec 16) (pix : List Byte),
    (sr = .null ∨ ChannelAbsent s ch →
      exec (.txWrite sr ch n pix) s = .next { s with rsps := s.rsps ++ [1#64] }) ∧
    ∀ k c, sr = .ses → ChannelIs s ch k c →
      (s.linkOpen = false → exec (.txWrite sr ch n pix) s = .next { s with rsps := s.rsps ++ [2#64] }) ∧
      (s.linkOpen = true → pix.length < n.toNat * c.width.toNat →
        exec (.txWrite sr ch n pix) s = .fault .pixUnderrun) ∧
      (s.linkOpen = true → n.toNat * c.width.toNat ≤ pix.length →
        ∃ (body : List Byte) (sum : Word32),
          body = [0x55#8, 0x50#8, 0x58#8, 0x4C#8, c.num, 1#8, c.kind, c.offW ++ c.offB ++ c.offG ++ c.offR,
            n.extractLsb' 0 8, n.extractLsb' 8 8] ++ pix.take (n.toNat * c.width.toNat) ∧
          sum = crc32 body ∧
          exec (.txWrite sr ch n pix) s = .next { s with
            xlog := s.xlog ++ (body ++ [sum.extractLsb' 0 8, sum.extractLsb' 8 8, sum.extractLsb' 16 8,
              sum.extractLsb' 24 8]).map .xByte,
            crc := crcBytes 0xFFFFFFFF#32 body,
            ctx := s.ctx.set k { c with pcount := n },
            rsps := s.rsps ++ [0#64] })

/-- R53: bytes past those the count asks for are not read: adding some to a buffer that is long enough changes nothing
that `TX.WRITE` does. -/
def Obligations.TxWriteIgnoresExcessBytes : Prop :=
  ∀ (s : State) (sr : SesRef) (ch : ChanRef) (n : BitVec 16) (pix extra : List Byte),
    exec (.txWrite sr ch n pix) s ≠ .fault .pixUnderrun →
    exec (.txWrite sr ch n (pix ++ extra)) s = exec (.txWrite sr ch n pix) s

/-- R51, R165: when the count is 0 or the channel is Disabled (width 0), no pixel byte is read: any buffer, the empty one
too, gives the same 14-byte record. -/
def Obligations.TxWriteWithoutPixelsReadsNothing : Prop :=
  ∀ (s : State) (ch : ChanRef) (n : BitVec 16) (pix : List Byte) (k : Nat) (c : ChanCtx),
    ChannelIs s ch k c → s.linkOpen = true → (n = 0#16 ∨ c.width = 0#3) →
    ∃ (t : State) (bs : List Byte), exec (.txWrite .ses ch n pix) s = .next t ∧ exec (.txWrite .ses ch n []) s = .next t ∧
      t.xlog = s.xlog ++ bs.map .xByte ∧ bs.length = 14

/-- R163, R172: `TX.COMMIT`, the two-phase machine. In `IDLE` the checks, once, and then the wait; in `WAIT` one poll:
nothing changes while the gate is closed, and when it is open the ten bytes of the commit record are appended, the
running checksum stored, the clock sampled again and stored, and the command answered (one poll a step and the checks
not made again are log entry 8). -/
def Obligations.TxCommitChecksWaitsAndCommits : Prop :=
  ∀ (s : State) (sr : SesRef),
    (s.phase = .idle → sr = .null → exec (.txCommit sr) s = .next { s with rsps := s.rsps ++ [1#64] }) ∧
    (s.phase = .idle → sr = .ses → s.linkOpen = false →
      exec (.txCommit sr) s = .next { s with rsps := s.rsps ++ [2#64] }) ∧
    (s.phase = .idle → sr = .ses → s.linkOpen = true → exec (.txCommit sr) s = .next { s with phase := .wait }) ∧
    (s.phase = .wait → ∀ t1 s1, s.sampleNow = some (t1, s1) →
      ((t1 - s.lastCommit).toNat < 310 →
        exec (.txCommit sr) s = .next { s with samples := s1.samples, clkSeen := t1, draws := s1.draws }) ∧
      (310 ≤ (t1 - s.lastCommit).toNat → ∀ t2 s2, s1.sampleNow = some (t2, s2) →
        exec (.txCommit sr) s = .next { s with
          xlog := s.xlog ++ [.xByte 0x55#8, .xByte 0x50#8, .xByte 0x58#8, .xByte 0x4C#8, .xByte 0xFF#8, .xByte 0x02#8,
            .xByte 0x9B#8, .xByte 0x38#8, .xByte 0x81#8, .xByte 0xDF#8],
          crc := 0x207EC764#32, lastCommit := t2, phase := .idle, samples := s2.samples, clkSeen := t2,
          draws := s2.draws, rsps := s.rsps ++ [0#64] }))

/-- R172, R173: a `TX.COMMIT` at the port of an idle core with an open link, whose first listed sample opens the gate,
is complete two steps later, with the second sample stored (the steps and the list of samples are log entries 5 and 8). -/
def Obligations.TxCommitRunsOnListedSamples : Prop :=
  ∀ (s : State) (w : Word64) (pix : List Byte) (acts : List HostAction) (t1 t2 : Word64) (rest : List Word64),
    s.phase = .idle → s.linkOpen = true → s.port = .command ⟨w, pix⟩ :: acts → w &&& 0x1F#64 = 0x19#64 →
    s.samples = t1 :: t2 :: rest → s.clkSeen ≤ t1 → t1 ≤ t2 → 310 ≤ (t1 - s.lastCommit).toNat →
    ∃ u, step s = .next u ∧ u.phase = .wait ∧ u.rsps = s.rsps ∧
      step u = .next { s with
        xlog := s.xlog ++ encCommit.map .xByte, crc := 0x207EC764#32, lastCommit := t2, port := acts,
        samples := rest, clkSeen := t2, rsps := s.rsps ++ [0#64] }

/-- R170: under the monotone clock the gate is open exactly from 310 microseconds after the last commit on. -/
def Obligations.GateOpensAtExactly310 : Prop :=
  ∀ last now : Word64, last ≤ now → (gateOpen last now = true ↔ last.toNat + 310 ≤ now.toNat)

/-- R175: a waiting commit stays as it is while the samples it draws find the gate closed, and completes at the first
that finds it open (the steps and the list of samples are log entries 5 and 8). -/
def Obligations.CommitCompletesAtTheFirstOpenSample : Prop :=
  ∀ (s : State) (closed rest : List Word64),
    s.phase = .wait → s.samples = closed ++ rest → MonotoneFrom s.clkSeen closed →
    (∀ c ∈ closed, (c - s.lastCommit).toNat < 310) →
    (∃ u, runSteps closed.length s = .next u ∧ u.phase = .wait ∧ SameRegisters s u ∧ u.rsps = s.rsps ∧
      u.samples = rest) ∧
    ∀ t1 t2 more, rest = t1 :: t2 :: more → MonotoneFrom s.clkSeen (closed ++ [t1, t2]) →
      310 ≤ (t1 - s.lastCommit).toNat →
      runSteps (closed.length + 1) s = .next { s with
        xlog := s.xlog ++ encCommit.map .xByte, crc := 0x207EC764#32, lastCommit := t2, phase := .idle,
        samples := more, clkSeen := t2, rsps := s.rsps ++ [0#64] }

/-- R163, R176: `S.CLOSE` reports an absent session, then a closed link, or closes the link, after which a second
`S.CLOSE` reports `NotConnected` and changes nothing. -/
def Obligations.SCloseClosesOrReports : Prop :=
  ∀ (s : State) (sr : SesRef),
    (sr = .null → exec (.sClose sr) s = .next { s with rsps := s.rsps ++ [1#64] }) ∧
    (sr = .ses → s.linkOpen = false → exec (.sClose sr) s = .next { s with rsps := s.rsps ++ [2#64] }) ∧
    (sr = .ses → s.linkOpen = true → ∃ t, exec (.sClose sr) s = .next t ∧
      t = { s with linkOpen := false, xlog := s.xlog ++ [.xClose], rsps := s.rsps ++ [0#64] } ∧
      exec (.sClose sr) t = .next { t with rsps := t.rsps ++ [2#64] })

/-! ## The whole machine -/

/-- R41, R22, R164: the frame of every command: a register its row of the table gives no w is as it was, as are every
context but the one it names, the clock of a command that samples none, the factory of a command other than `S.OPEN`,
and the host's list. -/
def Obligations.EveryCommandKeepsWhatItDoesNotWrite : Prop :=
  ∀ (i : Instr) (s t : State), exec i s = .next t →
    (writesCrc i = false → t.crc = s.crc) ∧
    (∀ k, writesContext i ≠ some k → t.ctx[k]? = s.ctx[k]?) ∧
    t.ctx.length = s.ctx.length ∧
    (writesLink i = false → t.linkOpen = s.linkOpen) ∧
    (usesClock i = false → t.lastCommit = s.lastCommit ∧ t.samples = s.samples ∧ t.clkSeen = s.clkSeen ∧
      t.draws = s.draws) ∧
    ((∀ sr, i ≠ .txCommit sr) → t.phase = s.phase) ∧
    (writesTrace i = false → t.xlog = s.xlog) ∧
    (i ≠ .sOpen → t.answers = s.answers) ∧
    t.port = s.port

/-- R35, R55, R220: a step only appends to the output trace, but for a reset the host asserts (log entry 10). -/
def Obligations.OutputTraceOnlyGrows : Prop :=
  ∀ s t : State, step s = .next t →
    (∃ events, t.xlog = s.xlog ++ events) ∨ (s.phase = .idle ∧ ∃ rest, s.port = .reset :: rest)

/-- R200: a command that answers a status other than `OK` writes no register, appends nothing, samples no clock, and
asks the factory only when the status is `NoDriver`. -/
def Obligations.FailedCommandChangesNothing : Prop :=
  ∀ (i : Instr) (s t : State) (w : Word64), exec i s = .next t → t.rsps = s.rsps ++ [w] →
    w.extractLsb' 0 4 ≠ 0#4 →
    SameRegisters s t ∧ t.samples = s.samples ∧ t.clkSeen = s.clkSeen ∧ t.port = s.port ∧
      (w.extractLsb' 0 4 ≠ 5#4 → t.answers = s.answers ∧ t.draws = s.draws)

/-- R70, R73: a command that comes to a next state has given exactly one response, but for a `TX.COMMIT` that waits,
which has given none (the list of responses is log entry 3, the steps of a commit log entry 8). -/
def Obligations.EveryCommandGivesOneResponse : Prop :=
  ∀ (i : Instr) (s t : State), exec i s = .next t →
    (∃ w, t.rsps = s.rsps ++ [w]) ∨ (t.rsps = s.rsps ∧ t.phase = .wait ∧ ∃ sr, i = .txCommit sr)

/-- R191, R75: the status of a response is one the command's row lists, and the data is 0 where no rule gives another. -/
def Obligations.StatusIsOneTheTableLists : Prop :=
  ∀ (i : Instr) (s t : State), exec i s = .next t → t.rsps ≠ s.rsps →
    ∃ st data, t.rsps = s.rsps ++ [rspWord st data] ∧ st ∈ statusesOf i ∧
      (data ≠ 0 → st = .noDriver ∨ i = .crcInit ∨ (∃ b, i = .crcUpd b) ∨ i = .crcFin)

/-- R75, R76: every step keeps every response word in the form of R75, with a status of R76. -/
def Obligations.StepsKeepResponsesLegal : Prop :=
  ∀ s t : State, (∀ w ∈ s.rsps, LegalResponse w) → step s = .next t → ∀ w ∈ t.rsps, LegalResponse w

/-- R230: what a record command does where it succeeds does not depend on what the host left in the checksum
register. -/
def Obligations.RecordsDoNotDependOnTheChecksumRegister : Prop :=
  ∀ (s t : State) (v : Word32),
    (∀ ch n pix k c, ChannelIs s ch k c → s.linkOpen = true → n.toNat * c.width.toNat ≤ pix.length →
      exec (.txWrite .ses ch n pix) { s with crc := v } = exec (.txWrite .ses ch n pix) s) ∧
    (∀ sr, s.phase = .wait → exec (.txCommit sr) s = .next t → t.phase = .idle →
      exec (.txCommit sr) { s with crc := v } = .next t)

/-- R33: no step takes the ghost of the clock back (log entry 5). -/
def Obligations.ClockNeverGoesBack : Prop := ∀ s t : State, step s = .next t → s.clkSeen ≤ t.clkSeen

/-- R36, R40: the reset state of every size R5 allows meets the invariant (the ghost of the clock starts at 0, log entry
5). -/
def Obligations.ResetMeetsTheInvariant : Prop := ∀ n : Nat, 1 ≤ n → n ≤ 16 → MachineInv (State.resetWith n)

/-- R36, R5, R28: every step keeps the invariant: the size of the context file, legal contexts, a well-formed trace that
agrees with the link, whole records on the wire, and a last commit not later than the latest sample. -/
def Obligations.EveryStepKeepsTheInvariant : Prop := ∀ s t : State, MachineInv s → step s = .next t → MachineInv t

/-- R174: after a commit that completed at its second sample, the next commit, any number of steps later and across
closes, opens and resets, passes the gate only at a sample at least 310 microseconds later, under the monotone clock of log entry 5. -/
def Obligations.ConsecutiveCommitsAre310Apart : Prop :=
  ∀ (k : Nat) (s u v v1 w : State) (t1 : Word64),
    MachineInv s → s.phase = .wait → step s = .next u → u.phase = .idle →
    runSteps k u = .next v → v.phase = .wait → v.sampleNow = some (t1, v1) → step v = .next w → w.phase = .idle →
    u.lastCommit.toNat + 310 ≤ t1.toNat

/-! ## Liveness of a commit (R175) -/

/-- R175: a waiting `TX.COMMIT` completes if and only if some sample taken during its wait satisfies the gate, and hangs
otherwise, under the monotone clock (one poll a step and the list of samples are log entries 5 and 8). -/
def Obligations.CommitCompletesIffSomeSampleOpensTheGate : Prop :=
  ∀ s : State, s.phase = .wait → MonotoneFrom s.clkSeen s.samples →
    ((∃ k t, WaitsFor k s ∧ runSteps (k + 1) s = .next t ∧ t.phase = .idle ∧ t.rsps = s.rsps ++ [0#64]) ↔
      ∃ k u t1 u1, WaitsFor k s ∧ runSteps k s = .next u ∧ u.sampleNow = some (t1, u1) ∧
        310 ≤ (t1 - s.lastCommit).toNat) ∧
    (Hangs s ↔ ¬ ∃ k u t1 u1, WaitsFor k s ∧ runSteps k s = .next u ∧ u.sampleNow = some (t1, u1) ∧
        310 ≤ (t1 - s.lastCommit).toNat)

/-- R175, R33: under a monotone clock that meets the fairness assumption (log entry 21), and that can reach 310 after the
last commit without wrapping, a waiting `TX.COMMIT` completes at the first sample that opens the gate, once enough of the
clock is listed. -/
def Obligations.FairClockCompletesTheCommit : Prop :=
  ∀ (s : State) (clock : Nat → Word64),
    s.phase = .wait → s.clkSeen ≤ clock 0 → ClockMonotone clock → ClockFair clock →
    s.lastCommit.toNat + 310 < 2 ^ 64 →
    ∃ n, (∀ k, k < n → (clock k - s.lastCommit).toNat < 310) ∧ 310 ≤ (clock n - s.lastCommit).toNat ∧
      ∀ m, n + 2 ≤ m →
        runSteps (n + 1) { s with samples := (List.range m).map clock } = .next { s with
          xlog := s.xlog ++ encCommit.map .xByte, crc := 0x207EC764#32, lastCommit := clock (n + 1), phase := .idle,
          samples := ((List.range m).drop (n + 2)).map clock, clkSeen := clock (n + 1), rsps := s.rsps ++ [0#64] }

/-- R175, R241: as long as a commit waits the run is not final, the port gives up nothing, no response is given and no
register changes (one poll a step is log entry 8). -/
def Obligations.WaitingRunIsNotFinal : Prop :=
  ∀ (s t : State) (k : Nat), WaitsFor k s → runSteps k s = .next t →
    ¬ Final t ∧ t.port = s.port ∧ t.rsps = s.rsps ∧ SameRegisters s t
end

