-- ==== Sys2Proof/Laws/Decode.lean ====
section
/-! SUPPORT. Each field of a packed command word, read back. -/

namespace Sys2Proof

section
variable (op : BitVec 4) (sv cv : BitVec 1) (ctx : BitVec 4) (a0 a1 ro go bo wo : Byte)

@[simp] theorem fieldOp_packWord : fieldOp (packWord op sv cv ctx a0 a1 ro go bo wo) = op := by
  ext i hi
  simp only [fieldOp, packWord, BitVec.getElem_extractLsb', BitVec.getLsbD_or, BitVec.getLsbD_shiftLeft,
    BitVec.getLsbD_setWidth]
  interval_cases i <;> simp

@[simp] theorem fieldSv_packWord : fieldSv (packWord op sv cv ctx a0 a1 ro go bo wo) = sv.getLsbD 0 := by
  simp [fieldSv, packWord]

@[simp] theorem fieldCv_packWord : fieldCv (packWord op sv cv ctx a0 a1 ro go bo wo) = cv.getLsbD 0 := by
  simp [fieldCv, packWord]

@[simp] theorem fieldCtx_packWord : fieldCtx (packWord op sv cv ctx a0 a1 ro go bo wo) = ctx := by
  ext i hi
  simp only [fieldCtx, packWord, BitVec.getElem_extractLsb', BitVec.getLsbD_or, BitVec.getLsbD_shiftLeft,
    BitVec.getLsbD_setWidth]
  interval_cases i <;> simp

@[simp] theorem fieldA0_packWord : fieldA0 (packWord op sv cv ctx a0 a1 ro go bo wo) = a0 := by
  ext i hi
  simp only [fieldA0, packWord, BitVec.getElem_extractLsb', BitVec.getLsbD_or, BitVec.getLsbD_shiftLeft,
    BitVec.getLsbD_setWidth]
  interval_cases i <;> simp

@[simp] theorem fieldA1_packWord : fieldA1 (packWord op sv cv ctx a0 a1 ro go bo wo) = a1 := by
  ext i hi
  simp only [fieldA1, packWord, BitVec.getElem_extractLsb', BitVec.getLsbD_or, BitVec.getLsbD_shiftLeft,
    BitVec.getLsbD_setWidth]
  interval_cases i <;> simp

@[simp] theorem fieldRo_packWord : fieldRo (packWord op sv cv ctx a0 a1 ro go bo wo) = ro := by
  ext i hi
  simp only [fieldRo, packWord, BitVec.getElem_extractLsb', BitVec.getLsbD_or, BitVec.getLsbD_shiftLeft,
    BitVec.getLsbD_setWidth]
  interval_cases i <;> simp

@[simp] theorem fieldGo_packWord : fieldGo (packWord op sv cv ctx a0 a1 ro go bo wo) = go := by
  ext i hi
  simp only [fieldGo, packWord, BitVec.getElem_extractLsb', BitVec.getLsbD_or, BitVec.getLsbD_shiftLeft,
    BitVec.getLsbD_setWidth]
  interval_cases i <;> simp

@[simp] theorem fieldBo_packWord : fieldBo (packWord op sv cv ctx a0 a1 ro go bo wo) = bo := by
  ext i hi
  simp only [fieldBo, packWord, BitVec.getElem_extractLsb', BitVec.getLsbD_or, BitVec.getLsbD_shiftLeft,
    BitVec.getLsbD_setWidth]
  interval_cases i <;> simp

@[simp] theorem fieldWo_packWord : fieldWo (packWord op sv cv ctx a0 a1 ro go bo wo) = wo := by
  ext i hi
  simp only [fieldWo, packWord, BitVec.getElem_extractLsb', BitVec.getLsbD_or, BitVec.getLsbD_shiftLeft,
    BitVec.getLsbD_setWidth]
  interval_cases i <;> simp

@[simp] theorem fieldCount_packWord (n : BitVec 16) :
    fieldCount (packWord op sv cv ctx (n.extractLsb' 0 8) (n.extractLsb' 8 8) ro go bo wo) = n := by
  ext i hi
  simp only [fieldCount, packWord, BitVec.getElem_extractLsb', BitVec.getLsbD_or, BitVec.getLsbD_shiftLeft,
    BitVec.getLsbD_setWidth]
  interval_cases i <;> simp

end

end Sys2Proof
end

