-- ==== Sys2Proof/Laws/State.lean ====
section
/-! SUPPORT. One lemma per field per named update of the state, each true by definition, so that no later proof unfolds a
record update. -/

namespace Sys2Proof.Machine

/-! ### State.respond -/

@[simp] theorem State.respond_crc (s : State) (st : Status) (data : Word32) : (s.respond st data).crc = s.crc := rfl

@[simp] theorem State.respond_ctx (s : State) (st : Status) (data : Word32) : (s.respond st data).ctx = s.ctx := rfl

@[simp] theorem State.respond_linkOpen (s : State) (st : Status) (data : Word32) :
    (s.respond st data).linkOpen = s.linkOpen := rfl

@[simp] theorem State.respond_lastCommit (s : State) (st : Status) (data : Word32) :
    (s.respond st data).lastCommit = s.lastCommit := rfl

@[simp] theorem State.respond_phase (s : State) (st : Status) (data : Word32) :
    (s.respond st data).phase = s.phase := rfl

@[simp] theorem State.respond_xlog (s : State) (st : Status) (data : Word32) : (s.respond st data).xlog = s.xlog := rfl

@[simp] theorem State.respond_rsps (s : State) (st : Status) (data : Word32) :
    (s.respond st data).rsps = s.rsps ++ [rspWord st data] := rfl

@[simp] theorem State.respond_port (s : State) (st : Status) (data : Word32) : (s.respond st data).port = s.port := rfl

@[simp] theorem State.respond_samples (s : State) (st : Status) (data : Word32) :
    (s.respond st data).samples = s.samples := rfl

@[simp] theorem State.respond_answers (s : State) (st : Status) (data : Word32) :
    (s.respond st data).answers = s.answers := rfl

@[simp] theorem State.respond_clkSeen (s : State) (st : Status) (data : Word32) :
    (s.respond st data).clkSeen = s.clkSeen := rfl

@[simp] theorem State.respond_draws (s : State) (st : Status) (data : Word32) :
    (s.respond st data).draws = s.draws := rfl

/-! ### State.setContext -/

@[simp] theorem State.setContext_crc (s : State) (i : Nat) (c : ChanCtx) : (s.setContext i c).crc = s.crc := rfl

@[simp] theorem State.setContext_ctx (s : State) (i : Nat) (c : ChanCtx) : (s.setContext i c).ctx = s.ctx.set i c := rfl

@[simp] theorem State.setContext_linkOpen (s : State) (i : Nat) (c : ChanCtx) :
    (s.setContext i c).linkOpen = s.linkOpen := rfl

@[simp] theorem State.setContext_lastCommit (s : State) (i : Nat) (c : ChanCtx) :
    (s.setContext i c).lastCommit = s.lastCommit := rfl

@[simp] theorem State.setContext_phase (s : State) (i : Nat) (c : ChanCtx) : (s.setContext i c).phase = s.phase := rfl

@[simp] theorem State.setContext_xlog (s : State) (i : Nat) (c : ChanCtx) : (s.setContext i c).xlog = s.xlog := rfl

@[simp] theorem State.setContext_rsps (s : State) (i : Nat) (c : ChanCtx) : (s.setContext i c).rsps = s.rsps := rfl

@[simp] theorem State.setContext_port (s : State) (i : Nat) (c : ChanCtx) : (s.setContext i c).port = s.port := rfl

@[simp] theorem State.setContext_samples (s : State) (i : Nat) (c : ChanCtx) : (s.setContext i c).samples = s.samples := rfl

@[simp] theorem State.setContext_answers (s : State) (i : Nat) (c : ChanCtx) : (s.setContext i c).answers = s.answers := rfl

@[simp] theorem State.setContext_clkSeen (s : State) (i : Nat) (c : ChanCtx) : (s.setContext i c).clkSeen = s.clkSeen := rfl

@[simp] theorem State.setContext_draws (s : State) (i : Nat) (c : ChanCtx) : (s.setContext i c).draws = s.draws := rfl

/-! ### State.tx -/

@[simp] theorem State.tx_crc (s : State) (bs : List Byte) : (s.tx bs).crc = s.crc := rfl

@[simp] theorem State.tx_ctx (s : State) (bs : List Byte) : (s.tx bs).ctx = s.ctx := rfl

@[simp] theorem State.tx_linkOpen (s : State) (bs : List Byte) : (s.tx bs).linkOpen = s.linkOpen := rfl

@[simp] theorem State.tx_lastCommit (s : State) (bs : List Byte) : (s.tx bs).lastCommit = s.lastCommit := rfl

@[simp] theorem State.tx_phase (s : State) (bs : List Byte) : (s.tx bs).phase = s.phase := rfl

@[simp] theorem State.tx_xlog (s : State) (bs : List Byte) : (s.tx bs).xlog = s.xlog ++ bs.map .xByte := rfl

@[simp] theorem State.tx_rsps (s : State) (bs : List Byte) : (s.tx bs).rsps = s.rsps := rfl

@[simp] theorem State.tx_port (s : State) (bs : List Byte) : (s.tx bs).port = s.port := rfl

@[simp] theorem State.tx_samples (s : State) (bs : List Byte) : (s.tx bs).samples = s.samples := rfl

@[simp] theorem State.tx_answers (s : State) (bs : List Byte) : (s.tx bs).answers = s.answers := rfl

@[simp] theorem State.tx_clkSeen (s : State) (bs : List Byte) : (s.tx bs).clkSeen = s.clkSeen := rfl

@[simp] theorem State.tx_draws (s : State) (bs : List Byte) : (s.tx bs).draws = s.draws := rfl

/-! ### State.logEvent -/

@[simp] theorem State.logEvent_crc (s : State) (e : XEvent) : (s.logEvent e).crc = s.crc := rfl

@[simp] theorem State.logEvent_ctx (s : State) (e : XEvent) : (s.logEvent e).ctx = s.ctx := rfl

@[simp] theorem State.logEvent_linkOpen (s : State) (e : XEvent) : (s.logEvent e).linkOpen = s.linkOpen := rfl

@[simp] theorem State.logEvent_lastCommit (s : State) (e : XEvent) : (s.logEvent e).lastCommit = s.lastCommit := rfl

@[simp] theorem State.logEvent_phase (s : State) (e : XEvent) : (s.logEvent e).phase = s.phase := rfl

@[simp] theorem State.logEvent_xlog (s : State) (e : XEvent) : (s.logEvent e).xlog = s.xlog ++ [e] := rfl

@[simp] theorem State.logEvent_rsps (s : State) (e : XEvent) : (s.logEvent e).rsps = s.rsps := rfl

@[simp] theorem State.logEvent_port (s : State) (e : XEvent) : (s.logEvent e).port = s.port := rfl

@[simp] theorem State.logEvent_samples (s : State) (e : XEvent) : (s.logEvent e).samples = s.samples := rfl

@[simp] theorem State.logEvent_answers (s : State) (e : XEvent) : (s.logEvent e).answers = s.answers := rfl

@[simp] theorem State.logEvent_clkSeen (s : State) (e : XEvent) : (s.logEvent e).clkSeen = s.clkSeen := rfl

@[simp] theorem State.logEvent_draws (s : State) (e : XEvent) : (s.logEvent e).draws = s.draws := rfl

/-! ### State.sendRecord -/

@[simp] theorem State.sendRecord_crc (s : State) (body : List Byte) :
    (s.sendRecord body).crc = crcBytes crcInitValue body := rfl

@[simp] theorem State.sendRecord_ctx (s : State) (body : List Byte) : (s.sendRecord body).ctx = s.ctx := rfl

@[simp] theorem State.sendRecord_linkOpen (s : State) (body : List Byte) : (s.sendRecord body).linkOpen = s.linkOpen := rfl

@[simp] theorem State.sendRecord_lastCommit (s : State) (body : List Byte) :
    (s.sendRecord body).lastCommit = s.lastCommit := rfl

@[simp] theorem State.sendRecord_phase (s : State) (body : List Byte) : (s.sendRecord body).phase = s.phase := rfl

@[simp] theorem State.sendRecord_xlog (s : State) (body : List Byte) :
    (s.sendRecord body).xlog = s.xlog ++ (record body).map .xByte := rfl

@[simp] theorem State.sendRecord_rsps (s : State) (body : List Byte) : (s.sendRecord body).rsps = s.rsps := rfl

@[simp] theorem State.sendRecord_port (s : State) (body : List Byte) : (s.sendRecord body).port = s.port := rfl

@[simp] theorem State.sendRecord_samples (s : State) (body : List Byte) : (s.sendRecord body).samples = s.samples := rfl

@[simp] theorem State.sendRecord_answers (s : State) (body : List Byte) : (s.sendRecord body).answers = s.answers := rfl

@[simp] theorem State.sendRecord_clkSeen (s : State) (body : List Byte) : (s.sendRecord body).clkSeen = s.clkSeen := rfl

@[simp] theorem State.sendRecord_draws (s : State) (body : List Byte) : (s.sendRecord body).draws = s.draws := rfl

/-! ### State.assertReset -/

@[simp] theorem State.assertReset_crc (s : State) : s.assertReset.crc = 0xFFFFFFFF#32 := rfl

@[simp] theorem State.assertReset_ctx (s : State) : s.assertReset.ctx = List.replicate s.ctx.length ChanCtx.reset := rfl

@[simp] theorem State.assertReset_linkOpen (s : State) : s.assertReset.linkOpen = false := rfl

@[simp] theorem State.assertReset_lastCommit (s : State) : s.assertReset.lastCommit = 0#64 := rfl

@[simp] theorem State.assertReset_phase (s : State) : s.assertReset.phase = .idle := rfl

@[simp] theorem State.assertReset_xlog (s : State) : s.assertReset.xlog = [] := rfl

@[simp] theorem State.assertReset_rsps (s : State) : s.assertReset.rsps = s.rsps := rfl

@[simp] theorem State.assertReset_port (s : State) : s.assertReset.port = s.port := rfl

@[simp] theorem State.assertReset_samples (s : State) : s.assertReset.samples = s.samples := rfl

@[simp] theorem State.assertReset_answers (s : State) : s.assertReset.answers = s.answers := rfl

@[simp] theorem State.assertReset_clkSeen (s : State) : s.assertReset.clkSeen = s.clkSeen := rfl

@[simp] theorem State.assertReset_draws (s : State) : s.assertReset.draws = s.draws := rfl

end Sys2Proof.Machine
end

