-- ==== Sys2Proof/Laws/Ops.lean ====
section
/-! SUPPORT. What each shared operation can do, said once. -/

namespace Sys2Proof.Machine

/-! ### Environment -/

/-- A sample that is drawn is at least the largest so far, becomes it, and touches the clock's own fields alone. -/
theorem State.sampleNow_some {s s' : State} {t : Word64} (h : s.sampleNow = some (t, s')) :
    s.clkSeen ≤ t ∧ s' = { s with samples := s'.samples, clkSeen := t, draws := s'.draws } := by
  unfold State.sampleNow at h
  split at h
  · split at h
    · rename_i hle
      cases h
      exact ⟨hle, rfl⟩
    · cases h
  · cases h
    refine ⟨?_, rfl⟩
    split
    · assumption
    · exact BitVec.le_refl _

/-- Field by field, what a drawn sample leaves as it was. -/
theorem State.sampleNow_keeps {s s' : State} {t : Word64} (h : s.sampleNow = some (t, s')) :
    s'.crc = s.crc ∧ s'.ctx = s.ctx ∧ s'.linkOpen = s.linkOpen ∧ s'.lastCommit = s.lastCommit ∧
      s'.phase = s.phase ∧ s'.xlog = s.xlog ∧ s'.rsps = s.rsps ∧ s'.port = s.port ∧ s'.answers = s.answers ∧
      s'.clkSeen = t ∧ s.clkSeen ≤ t := by
  obtain ⟨hle, hs⟩ := State.sampleNow_some h
  rw [hs]
  exact ⟨rfl, rfl, rfl, rfl, rfl, rfl, rfl, rfl, rfl, rfl, hle⟩

/-- With a sample listed that is not smaller than an earlier one, that sample is drawn. -/
theorem State.sampleNow_cons {s : State} {t : Word64} {rest : List Word64} (hs : s.samples = t :: rest)
    (hle : s.clkSeen ≤ t) : s.sampleNow = some (t, { s with samples := rest, clkSeen := t }) := by
  simp [State.sampleNow, hs, hle]

/-- Asking the factory touches the list of answers and the counter of free values alone. -/
theorem State.xportOpen_snd (s : State) :
    s.xportOpen.2 = { s with answers := s.xportOpen.2.answers, draws := s.xportOpen.2.draws } := by
  unfold State.xportOpen
  split <;> rfl

@[simp] theorem State.xportOpen_crc (s : State) : s.xportOpen.2.crc = s.crc := by rw [State.xportOpen_snd]

@[simp] theorem State.xportOpen_ctx (s : State) : s.xportOpen.2.ctx = s.ctx := by rw [State.xportOpen_snd]

@[simp] theorem State.xportOpen_linkOpen (s : State) : s.xportOpen.2.linkOpen = s.linkOpen := by rw [State.xportOpen_snd]

@[simp] theorem State.xportOpen_lastCommit (s : State) : s.xportOpen.2.lastCommit = s.lastCommit := by rw [State.xportOpen_snd]

@[simp] theorem State.xportOpen_phase (s : State) : s.xportOpen.2.phase = s.phase := by rw [State.xportOpen_snd]

@[simp] theorem State.xportOpen_xlog (s : State) : s.xportOpen.2.xlog = s.xlog := by rw [State.xportOpen_snd]

@[simp] theorem State.xportOpen_rsps (s : State) : s.xportOpen.2.rsps = s.rsps := by rw [State.xportOpen_snd]

@[simp] theorem State.xportOpen_port (s : State) : s.xportOpen.2.port = s.port := by rw [State.xportOpen_snd]

@[simp] theorem State.xportOpen_samples (s : State) : s.xportOpen.2.samples = s.samples := by rw [State.xportOpen_snd]

@[simp] theorem State.xportOpen_clkSeen (s : State) : s.xportOpen.2.clkSeen = s.clkSeen := by rw [State.xportOpen_snd]

/-- With an answer listed, that answer is given. -/
theorem State.xportOpen_cons {s : State} {a : OpenAnswer} {rest : List OpenAnswer} (ha : s.answers = a :: rest) :
    s.xportOpen = (a, { s with answers := rest }) := by
  simp [State.xportOpen, ha]

/-! ### Operands -/

/-- A channel reference that resolves names an element of the context file at its own index. -/
theorem State.channel_some {s : State} {ch : ChanRef} {k : Nat} {c : ChanCtx} (h : s.channel ch = some (k, c)) :
    ∃ i, ch = .ctx i ∧ i.toNat = k ∧ s.ctx[k]? = some c := by
  unfold State.channel at h
  split at h
  · cases h
  · split at h
    · cases h
      exact ⟨_, rfl, rfl, by assumption⟩
    · cases h

/-- A channel reference that does not resolve is absent or names an index past the context file. -/
theorem State.channel_none {s : State} {ch : ChanRef} (h : s.channel ch = none) :
    ch = .null ∨ ∃ i, ch = .ctx i ∧ s.ctx.length ≤ i.toNat := by
  unfold State.channel at h
  split at h
  · exact .inl rfl
  · split at h
    · cases h
    · rename_i hn
      exact .inr ⟨_, rfl, List.getElem?_eq_none_iff.mp hn⟩

/-- The payload that is read is the first `k` bytes, and they are there. -/
theorem readPix_some {pix payload : List Byte} {k : Nat} (h : readPix pix k = some payload) :
    k ≤ pix.length ∧ payload = pix.take k := by
  unfold readPix at h
  split at h
  · cases h
    exact ⟨by assumption, rfl⟩
  · cases h

/-- Nothing is read exactly when the buffer is too short. -/
theorem readPix_none {pix : List Byte} {k : Nat} : readPix pix k = none ↔ pix.length < k := by
  unfold readPix
  split <;> simp <;> omega

/-! ### The channel model and the gate -/

/-- The kinds that pass the check (R120). -/
theorem kindOk_iff : ∀ k : Byte, kindOk k = true ↔ k = 0#8 ∨ k = 3#8 ∨ k = 4#8 := by decide +kernel

/-- Where the kind is legal its width is its own number (R120). -/
theorem widthOf_of_kindOk : ∀ k : Byte, kindOk k = true → (widthOf k).toNat = k.toNat := by decide +kernel

/-- The gate in the words of R170. -/
theorem gateOpen_iff {last now : Word64} : gateOpen last now = true ↔ 310 ≤ (now - last).toNat := by
  unfold gateOpen
  exact decide_eq_true_iff

/-- The closed gate in the words of R170. -/
theorem gateOpen_false_iff {last now : Word64} : gateOpen last now = false ↔ (now - last).toNat < 310 := by
  rw [← Bool.not_eq_true, gateOpen_iff, Nat.not_le]

/-- Sending a record and drawing a sample touch different fields. -/
theorem State.sendRecord_sampleNow (s : State) (body : List Byte) :
    (s.sendRecord body).sampleNow = s.sampleNow.map fun p => (p.1, p.2.sendRecord body) := by
  cases hs : s.samples with
  | nil => simp [State.sampleNow, State.sendRecord, State.tx, hs]
  | cons t rest =>
    by_cases hle : s.clkSeen ≤ t <;> simp [State.sampleNow, State.sendRecord, State.tx, hs, hle]

/-! ### Meanings: if one answers a next state, then one of these cases holds -/

theorem execChCfg_next {ch : ChanRef} {num kind r g b w : Byte} {s t : State}
    (h : execChCfg ch num kind r g b w s = .next t) :
    (∃ st : Status, (st = .invalidArgument ∨ st = .unsupported ∨ st = .outOfRange) ∧ t = s.respond st 0) ∨
    (∃ k c, s.channel ch = some (k, c) ∧ kindOk kind = true ∧ offsOk r g b w = true ∧
      t = (s.setContext k (configuredContext num kind r g b w)).respond .ok 0) := by
  unfold execChCfg at h
  split at h
  · cases h
    exact .inl ⟨_, .inl rfl, rfl⟩
  · rename_i k c hc
    split at h
    · split at h
      · cases h
        exact .inr ⟨k, c, hc, by assumption, by assumption, rfl⟩
      · cases h
        exact .inl ⟨_, .inr (.inr rfl), rfl⟩
    · cases h
      exact .inl ⟨_, .inr (.inl rfl), rfl⟩

theorem execChKind_next {ch : ChanRef} {kind : Byte} {s t : State} (h : execChKind ch kind s = .next t) :
    (∃ st : Status, (st = .invalidArgument ∨ st = .unsupported) ∧ t = s.respond st 0) ∨
    (∃ k c, s.channel ch = some (k, c) ∧ kindOk kind = true ∧
      t = (s.setContext k (c.withKind kind)).respond .ok 0) := by
  unfold execChKind at h
  split at h
  · cases h
    exact .inl ⟨_, .inl rfl, rfl⟩
  · rename_i k c hc
    split at h
    · cases h
      exact .inr ⟨k, c, hc, by assumption, rfl⟩
    · cases h
      exact .inl ⟨_, .inr rfl, rfl⟩

theorem execSOpen_next {s t : State} (h : execSOpen s = .next t) :
    (s.linkOpen = true ∧ t = s.respond .busy 0) ∨
    (s.linkOpen = false ∧ ∃ code, s.xportOpen.1 = .err code ∧ t = s.xportOpen.2.respond .noDriver code) ∨
    (s.linkOpen = false ∧ s.xportOpen.1 = .ok ∧ ∃ now s2, s.xportOpen.2.sampleNow = some (now, s2) ∧
      t = ({ s2 with linkOpen := true, lastCommit := now }.logEvent .xOpen).respond .ok 0) := by
  unfold execSOpen at h
  split at h
  · cases h
    exact .inl ⟨by assumption, rfl⟩
  · rename_i hl
    have hl' : s.linkOpen = false := by simpa using hl
    split at h
    · rename_i code s1 hx
      cases h
      exact .inr (.inl ⟨hl', code, by rw [hx], by rw [hx]⟩)
    · rename_i s1 hx
      split at h
      · cases h
      · rename_i now s2 hs
        cases h
        exact .inr (.inr ⟨hl', by rw [hx], now, s2, by rw [hx]; exact hs, rfl⟩)

theorem execSClose_next {sr : SesRef} {s t : State} (h : execSClose sr s = .next t) :
    (∃ st : Status, (st = .invalidArgument ∨ st = .notConnected) ∧ t = s.respond st 0) ∨
    (sr = .ses ∧ s.linkOpen = true ∧ t = ({ s with linkOpen := false }.logEvent .xClose).respond .ok 0) := by
  unfold execSClose at h
  split at h
  · cases h
    exact .inl ⟨_, .inl rfl, rfl⟩
  · split at h
    · cases h
      exact .inr ⟨rfl, by assumption, rfl⟩
    · cases h
      exact .inl ⟨_, .inr rfl, rfl⟩

theorem State.writeChannel_next {s t : State} {i : Nat} {c : ChanCtx} {n : BitVec 16} {pix : List Byte}
    (h : s.writeChannel i c n pix = .next t) :
    need n c.width ≤ pix.length ∧
      t = ((s.sendRecord (bodyWrite c n (pix.take (need n c.width)))).setContext i { c with pcount := n }).respond
        .ok 0 := by
  unfold State.writeChannel at h
  split at h
  · cases h
  · rename_i payload hp
    obtain ⟨hle, rfl⟩ := readPix_some hp
    cases h
    exact ⟨hle, rfl⟩

theorem execTxWrite_next {sr : SesRef} {ch : ChanRef} {n : BitVec 16} {pix : List Byte} {s t : State}
    (h : execTxWrite sr ch n pix s = .next t) :
    (∃ st : Status, (st = .invalidArgument ∨ st = .notConnected) ∧ t = s.respond st 0) ∨
    (∃ k c, sr = .ses ∧ s.channel ch = some (k, c) ∧ s.linkOpen = true ∧ need n c.width ≤ pix.length ∧
      t = ((s.sendRecord (bodyWrite c n (pix.take (need n c.width)))).setContext k { c with pcount := n }).respond
        .ok 0) := by
  unfold execTxWrite at h
  split at h
  · rename_i k c hc
    split at h
    · obtain ⟨hle, ht⟩ := State.writeChannel_next h
      exact .inr ⟨k, c, rfl, hc, by assumption, hle, ht⟩
    · cases h
      exact .inl ⟨_, .inr rfl, rfl⟩
  · cases h
    exact .inl ⟨_, .inl rfl, rfl⟩

/-- A poll that answers a next state either drew a sample that found the gate closed, and did nothing more, or drew one
that found it open, sent the commit record, and drew and stored a second one. -/
theorem State.commitPoll_next {s t : State} (h : s.commitPoll = .next t) :
    (∃ t1, s.sampleNow = some (t1, t) ∧ (t1 - s.lastCommit).toNat < 310) ∨
    (∃ t1 s1 t2 s2, s.sampleNow = some (t1, s1) ∧ 310 ≤ (t1 - s.lastCommit).toNat ∧ s1.sampleNow = some (t2, s2) ∧
      t = { s2.sendRecord bodyCommit with lastCommit := t2, phase := .idle }.respond .ok 0) := by
  unfold State.commitPoll at h
  split at h
  · cases h
  · rename_i t1 s1 hs
    have hl : s1.lastCommit = s.lastCommit := (State.sampleNow_keeps hs).2.2.2.1
    split at h
    · rename_i hg
      rw [gateOpen_iff, hl] at hg
      rw [State.sendRecord_sampleNow] at h
      cases hs2 : s1.sampleNow with
      | none => rw [hs2] at h; cases h
      | some p =>
        rw [hs2] at h
        cases h
        exact .inr ⟨t1, s1, p.1, p.2, hs, hg, hs2, rfl⟩
    · rename_i hg
      rw [Bool.not_eq_true, gateOpen_false_iff, hl] at hg
      cases h
      exact .inl ⟨t1, hs, hg⟩

theorem execTxCommit_next {sr : SesRef} {s t : State} (h : execTxCommit sr s = .next t) :
    (s.phase = .idle ∧ ∃ st : Status, (st = .invalidArgument ∨ st = .notConnected) ∧ t = s.respond st 0) ∨
    (s.phase = .idle ∧ sr = .ses ∧ s.linkOpen = true ∧ t = { s with phase := .wait }) ∨
    (s.phase = .wait ∧ s.commitPoll = .next t) := by
  unfold execTxCommit at h
  split at h
  · rename_i hp
    unfold State.commitAccept at h
    split at h
    · cases h
      exact .inl ⟨hp, _, .inl rfl, rfl⟩
    · split at h
      · cases h
        exact .inr (.inl ⟨hp, rfl, by assumption, rfl⟩)
      · cases h
        exact .inl ⟨hp, _, .inr rfl, rfl⟩
  · exact .inr (.inr ⟨by assumption, h⟩)

end Sys2Proof.Machine
end

