-- ==== Sys2Proof/Laws/Step.lean ====
section
/-! SUPPORT. What one step of the machine can do, said once. -/

namespace Sys2Proof.Machine

/-- A step that answers a next state does one of five things: a poll of the waiting commit, nothing, a reset, the
answer to a reserved opcode, or the command at the head of the host's list. -/
theorem step_next {s t : State} (h : step s = .next t) :
    (s.phase = .wait ∧ exec (.txCommit .ses) s = .next t) ∨
    (s.phase = .idle ∧ s.port = [] ∧ t = s) ∨
    (s.phase = .idle ∧ ∃ rest, s.port = .reset :: rest ∧ t = { s with port := rest }.assertReset) ∨
    (s.phase = .idle ∧ ∃ c rest, s.port = .command c :: rest ∧ (∃ e, decode c.word c.pix = .error e) ∧
      t = { s with port := rest }.respond .illegalCommand 0) ∨
    (s.phase = .idle ∧ ∃ c rest i, s.port = .command c :: rest ∧ decode c.word c.pix = .ok i ∧
      exec i { s with port := rest } = .next t) := by
  unfold step State.fetch at h
  cases hp : s.phase with
  | wait => rw [hp] at h; exact .inl ⟨rfl, h⟩
  | idle =>
    rw [hp] at h
    rcases hq : s.port with _ | ⟨c | _, rest⟩
    · rw [hq] at h; cases h; exact .inr (.inl ⟨rfl, rfl, rfl⟩)
    · rw [hq] at h
      cases hd : decode c.word c.pix with
      | ok i =>
        simp only [hd] at h
        exact .inr (.inr (.inr (.inr ⟨rfl, c, rest, i, rfl, hd, h⟩)))
      | error e =>
        simp only [hd] at h
        cases h
        exact .inr (.inr (.inr (.inl ⟨rfl, c, rest, rfl, ⟨e, hd⟩, rfl⟩)))
    · rw [hq] at h; cases h; exact .inr (.inr (.inl ⟨rfl, rest, rfl, rfl⟩))

end Sys2Proof.Machine
end

