-- ==== Sys2Proof/Laws/Safety.lean ====
section
/-! SUPPORT. How the terms of the statements read in the terms of the model. -/

namespace Sys2Proof.Machine

/-- An absent reference resolves to nothing. -/
theorem State.channel_of_absent {s : State} {ch : ChanRef} (h : ChannelAbsent s ch) : s.channel ch = none := by
  rcases h with rfl | ⟨i, rfl, hi⟩
  · rfl
  · simp [State.channel, List.getElem?_eq_none hi]

/-- A present reference resolves to its context. -/
theorem State.channel_of_is {s : State} {ch : ChanRef} {k : Nat} {c : ChanCtx} (h : ChannelIs s ch k c) :
    s.channel ch = some (k, c) := by
  obtain ⟨i, rfl, rfl, h⟩ := h
  simp [State.channel, h]

/-- `tx_bytes` of a trace and a record's bytes after it. -/
theorem txBytes_append_bytes (events : List XEvent) (bs : List Byte) :
    txBytes (events ++ bs.map .xByte) = txBytes events ++ bs := by
  induction events with
  | nil =>
    induction bs with
    | nil => rfl
    | cons b rest ih => simpa [txBytes] using ih
  | cons e rest ih => cases e <;> simp [txBytes, ih]

/-- Reading a trace in two parts. -/
theorem linkAfter_append (link : Bool) (xs ys : List XEvent) :
    linkAfter link (xs ++ ys) = (linkAfter link xs).bind fun l => linkAfter l ys := by
  induction xs generalizing link with
  | nil => rfl
  | cons e rest ih => cases e <;> cases link <;> simp [linkAfter, ih]

/-- Bytes on an open link leave it open. -/
theorem linkAfter_bytes (bs : List Byte) : linkAfter true (bs.map .xByte) = some true := by
  induction bs with
  | nil => rfl
  | cons b rest ih => simpa [linkAfter] using ih

/-- Two runs, one after the other. -/
theorem runSteps_add {a b : Nat} {s t : State} (h : runSteps a s = .next t) : runSteps (a + b) s = runSteps b t := by
  induction a generalizing s with
  | zero => cases h; simp
  | succ a ih =>
    rw [Nat.succ_add]
    simp only [runSteps] at h ⊢
    split at h
    · exact ih h
    · cases h
    · cases h

end Sys2Proof.Machine
end

