-- ==== Sys2Proof/Laws/Liveness.lean ====
section
/-! SUPPORT. What the fairness assumption of spec/43_session.md R175 gives: under it no commit hangs. -/

namespace Sys2Proof.Machine

/-- A hang is still one a step later, after a sample that found the gate closed. -/
theorem Hangs.step {s : State} (h : Hangs s) :
    ∃ t1 u, s.sampleNow = some (t1, u) ∧ (t1 - s.lastCommit).toNat < 310 ∧ Hangs u := by
  obtain ⟨v, hs, hw⟩ := h 0 0 (Nat.le_refl 0)
  cases hs
  obtain ⟨u, hu, huw⟩ := h 1 1 (Nat.le_refl 1)
  have hu' : Machine.step s = .next u := by
    simp only [runSteps] at hu
    split at hu <;> simp_all
  have hp : s.commitPoll = .next u := by
    simpa [Machine.step, State.fetch, hw, exec, execTxCommit] using hu'
  rcases State.commitPoll_next hp with ⟨t1, ht, hlt⟩ | ⟨_, _, _, _, _, _, _, rfl⟩
  · refine ⟨t1, u, ht, hlt, fun k j hj => ?_⟩
    obtain ⟨v, hv, hvw⟩ := h (j + 1) (j + 1) (Nat.le_refl _)
    rw [Nat.add_comm, runSteps_add hu] at hv
    exact ⟨v, hv, hvw⟩
  · cases huw

/-- A clock at least 310 after the last commit opens the gate. -/
theorem elapsed_of_le {last now : Word64} (h : last.toNat + 310 ≤ now.toNat) : 310 ≤ (now - last).toNat := by
  rw [BitVec.toNat_sub_of_le (BitVec.le_def.mpr (by omega))]
  omega

/-- A hang past the listed samples sees no free sample that reaches 310 after the last commit. -/
theorem Hangs.freeSample_lt {s : State} (h : Hangs s) (hs : s.samples = []) (n : Nat) :
    (Config.freeSample (s.draws + n)).toNat < s.lastCommit.toNat + 310 := by
  obtain ⟨t1, u, ht, hlt, hu⟩ := h.step
  have hl := (State.sampleNow_keeps ht).2.2.2.1
  simp only [State.sampleNow, hs, Option.some.injEq, Prod.mk.injEq] at ht
  obtain ⟨rfl, rfl⟩ := ht
  cases n with
  | zero =>
    by_contra hge
    have hle : (Config.freeSample s.draws).toNat ≤
        (if s.clkSeen ≤ Config.freeSample s.draws then Config.freeSample s.draws else s.clkSeen).toNat := by
      split
      · exact Nat.le_refl _
      · rename_i hn
        rw [BitVec.le_def] at hn
        omega
    have := elapsed_of_le (last := s.lastCommit) (Nat.le_trans (Nat.not_lt.mp hge) hle)
    omega
  | succ n =>
    have := hu.freeSample_lt rfl n
    simpa [Nat.add_assoc, Nat.add_comm 1 n] using this

/-- R175: if the free clock exceeds every bound, no commit hangs whose gate the clock can reach without wrapping. -/
theorem FreeClockFair.not_hangs (hf : FreeClockFair) {s : State} (hl : s.lastCommit.toNat + 310 < 2 ^ 64) :
    ¬ Hangs s := by
  intro h
  induction hs : s.samples generalizing s with
  | nil =>
    obtain ⟨k, hk, hlt⟩ := hf (s.lastCommit.toNat + 309) s.draws (by omega)
    have := h.freeSample_lt hs (k - s.draws)
    rw [Nat.add_sub_cancel' hk] at this
    omega
  | cons t rest ih =>
    obtain ⟨t1, u, ht, -, hu⟩ := h.step
    have hk := (State.sampleNow_keeps ht).2.2.2.1
    refine ih (s := u) (by rw [hk]; exact hl) hu ?_
    simp only [State.sampleNow, hs] at ht
    split at ht
    · cases ht; rfl
    · cases ht

end Sys2Proof.Machine
end

