-- ==== Sys2Proof/Laws/PerInstr.lean ====
section
/-! SUPPORT. Statements for every instruction: the opcode of the word a command is written as (spec/30_encoding.md R74). -/

namespace Sys2Proof.Laws.EncodedOpcode

/-- The low four bits of the command's word are its opcode, and only `TX.WRITE` presents pixel bytes (R54, R74). -/
def Statement (i : Instr) : Prop :=
  fieldOp (encode i).word = i.opcode ∧ ((encode i).pix = [] ∨ i.opcode = 8#4)

theorem crcInit : Statement .crcInit := ⟨fieldOp_packWord .., .inl rfl⟩

theorem crcUpd (b : Byte) : Statement (.crcUpd b) := ⟨fieldOp_packWord .., .inl rfl⟩

theorem crcFin : Statement .crcFin := ⟨fieldOp_packWord .., .inl rfl⟩

theorem chCfg (ch : ChanRef) (num kind r g b w : Byte) : Statement (.chCfg ch num kind r g b w) :=
  ⟨fieldOp_packWord .., .inl rfl⟩

theorem chKind (ch : ChanRef) (kind : Byte) : Statement (.chKind ch kind) := ⟨fieldOp_packWord .., .inl rfl⟩

theorem sOpen : Statement .sOpen := ⟨fieldOp_packWord .., .inl rfl⟩

theorem sClose (sr : SesRef) : Statement (.sClose sr) := ⟨fieldOp_packWord .., .inl rfl⟩

theorem txWrite (sr : SesRef) (ch : ChanRef) (n : BitVec 16) (pix : List Byte) : Statement (.txWrite sr ch n pix) :=
  ⟨fieldOp_packWord .., .inr rfl⟩

theorem txCommit (sr : SesRef) : Statement (.txCommit sr) := ⟨fieldOp_packWord .., .inl rfl⟩

end Sys2Proof.Laws.EncodedOpcode
end

