-- ==== Sys2Proof/Tests/Slice0.lean ====
section
/-! SUPPORT. Tests of the model against spec/95_test_vectors.md, and for each statement with hypotheses a named witness
that meets them. Expected values are the spec's. -/

namespace Sys2Proof.Tests

open Sys2Proof.Machine

/-! ## Small states -/

/-- The next state of an outcome, if it is one. -/
def after (o : Host.Outcome State Fault Refusal) : Option State :=
  match o with
  | .next s => some s
  | .fault _ => none
  | .refused _ => none

/-- The context of V-CH. -/
def ctxNine : ChanCtx := ⟨9, 4, 4, 3, 2, 1, 0, 77⟩

/-- The context of V-REC-1. -/
def ctxRgb : ChanCtx := ⟨0, 3, 3, 0, 1, 2, 0, 0⟩

/-- The context of V-REC-6: Disabled, with stored offsets. -/
def ctxOff : ChanCtx := ⟨7, 0, 0, 3, 2, 1, 0, 0⟩

/-- After reset, context 0 as V-CH starts. -/
def sCh : State := { State.reset with ctx := [ctxNine, ChanCtx.reset, ChanCtx.reset, ChanCtx.reset] }

/-- An open session at microsecond 1000. -/
def sLink : State :=
  { State.reset with
    ctx := [ctxRgb, ctxOff, ChanCtx.reset, ChanCtx.reset], linkOpen := true, lastCommit := 1000#64,
    clkSeen := 1000#64, xlog := [.xOpen] }

/-- A commit waiting in that session, with the samples of V-SES-18. -/
def sWait : State := { sLink with phase := .wait, samples := [1100#64, 1309#64, 1310#64, 1342#64] }

/-- A closed link, an `ok` answer and the sample 1000 at hand (V-SES-7). -/
def sShut : State := { State.reset with answers := [.ok], samples := [1000#64] }

/-! ## Words of the field table (spec/95_test_vectors.md B.2) -/

theorem test_decode_crcInit : decode 0x0000000000000001#64 [] = .ok .crcInit := rfl

theorem test_decode_crcInit_ignores : decode 0xFFFFFFFFFFFFFF01#64 [] = .ok .crcInit := rfl

theorem test_decode_crcUpd : decode 0x0000000000610002#64 [] = .ok (.crcUpd 0x61#8) := rfl

theorem test_decode_crcFin : decode 0x0000000000000003#64 [] = .ok .crcFin := rfl

theorem test_decode_chCfg : decode 0x0302000104020124#64 [] = .ok (.chCfg (.ctx 1#4) 2#8 4#8 1#8 0#8 2#8 3#8) := rfl

theorem test_decode_chCfg_null : decode 0x0002010003050004#64 [] = .ok (.chCfg .null 5#8 3#8 0#8 1#8 2#8 0#8) := rfl

theorem test_decode_chKind : decode 0x0000000003000125#64 [] = .ok (.chKind (.ctx 1#4) 3#8) := rfl

theorem test_decode_chKind_null : decode 0x0000000003000005#64 [] = .ok (.chKind .null 3#8) := rfl

theorem test_decode_sOpen : decode 0x0000000000000006#64 [] = .ok .sOpen := rfl

theorem test_decode_sClose : decode 0x0000000000000017#64 [] = .ok (.sClose .ses) := rfl

theorem test_decode_sClose_null : decode 0x0000000000000007#64 [] = .ok (.sClose .null) := rfl

theorem test_decode_txWrite : decode 0x0000000001020038#64 [7#8] = .ok (.txWrite .ses (.ctx 0#4) 258#16 [7#8]) := rfl

theorem test_decode_txWrite_null : decode 0x0000000000010028#64 [] = .ok (.txWrite .null (.ctx 0#4) 1#16 []) := rfl

theorem test_decode_txCommit : decode 0x0000000000000019#64 [] = .ok (.txCommit .ses) := rfl

theorem test_decode_txCommit_null : decode 0x0000000000000009#64 [] = .ok (.txCommit .null) := rfl

theorem test_decode_reserved :
    decode 0x0#64 [] = .error (.reservedOpcode 0#4) ∧ decode 0xA#64 [] = .error (.reservedOpcode 10#4) ∧
      decode 0xFFFFFFFFFFFFFFFF#64 [] = .error (.reservedOpcode 15#4) := ⟨rfl, rfl, rfl⟩

theorem test_decodeTableWord : decodeTableWord 64 0x02 = some (.crcUpd 0#8) ∧ decodeTableWord 64 0x0A = none := by decide

theorem test_encode_chCfg :
    encode (.chCfg (.ctx 3#4) 254#8 0#8 3#8 3#8 3#8 3#8) = ⟨0x0303030300FE0324#64, []⟩ := by decide

theorem test_encode_txWrite :
    encode (.txWrite .ses (.ctx 1#4) 2#16 [1#8, 2#8]) = ⟨0x0000000000020138#64, [1#8, 2#8]⟩ := by decide

/-! ## Well-formed commands: for each check one the check refuses -/

theorem test_wf : (⟨0x0302000104020124#64, []⟩ : PortCommand).wf = true := by decide

theorem test_wf_refuses_reserved_opcode : (⟨0x0A#64, []⟩ : PortCommand).wf = false := by decide

theorem test_wf_refuses_reserved_field : (⟨0x00C1#64, []⟩ : PortCommand).wf = false := by decide

theorem test_wf_refuses_absent_with_index : (⟨0x0000000003000105#64, []⟩ : PortCommand).wf = false := by decide

theorem test_wf_refuses_pix_without_write : (⟨0x01#64, [0#8]⟩ : PortCommand).wf = false := by decide

/-! ## Checksum (B.1) -/

theorem test_crc_nib : crcNib 0xFFFFFFFF#32 0x1#4 = 0xAFF51D87#32 ∧ crcNib 0xAFF51D87#32 0x6#4 = 0x174841BC#32 := by decide

theorem test_crc_check_value :
    crc32 [0x31#8, 0x32#8, 0x33#8, 0x34#8, 0x35#8, 0x36#8, 0x37#8, 0x38#8, 0x39#8] = 0xCBF43926#32 := by decide +kernel

theorem test_crcInit :
    (after (exec .crcInit { sCh with crc := 5#32 })).map (fun t => (t.crc, t.rsps)) =
      some (0xFFFFFFFF#32, [0xFFFFFFFF00000000#64]) := by decide +kernel

theorem test_crcUpd :
    (after (exec (.crcUpd 0x61#8) State.reset)).map (fun t => (t.crc, t.rsps)) =
      some (0x174841BC#32, [0x174841BC00000000#64]) := by decide +kernel

theorem test_crcFin :
    (after (exec .crcFin { State.reset with crc := 0x174841BC#32 })).map (fun t => (t.crc, t.rsps)) =
      some (0x174841BC#32, [0xE8B7BE4300000000#64]) := by decide +kernel

/-! ## Channel model (B.3) -/

theorem test_pack : pack 0#2 1#2 2#2 0#2 = 0x24#8 ∧ pack 1#2 0#2 2#2 3#2 = 0xE1#8 := by decide

theorem test_chCfg_stores :
    (after (exec (.chCfg (.ctx 0#4) 5#8 3#8 0#8 1#8 2#8 0#8) sCh)).map (fun t => (t.ctx[0]?, t.rsps)) =
      some (some ⟨5, 3, 3, 0, 1, 2, 0, 0⟩, [0#64]) := by decide +kernel

theorem test_chCfg_kind_before_offsets :
    (after (exec (.chCfg (.ctx 0#4) 5#8 5#8 9#8 9#8 9#8 9#8) sCh)).map (fun t => (t.ctx[0]?, t.rsps)) =
      some (some ctxNine, [3#64]) := by decide +kernel

theorem test_chKind_keeps_offsets :
    (after (exec (.chKind (.ctx 0#4) 3#8) sCh)).map (fun t => (t.ctx[0]?, t.rsps)) =
      some (some ⟨9, 3, 3, 3, 2, 1, 0, 77⟩, [0#64]) := by decide +kernel

theorem test_chKind_past_the_file :
    (after (exec (.chKind (.ctx 4#4) 3#8) sCh)).map (fun t => t.rsps) = some [1#64] := by decide +kernel

/-! ## Records and the session (B.4, B.5) -/

theorem test_txWrite_worked_example :
    (after (exec (.txWrite .ses (.ctx 0#4) 1#16 [0x10#8, 0x20#8, 0x30#8]) sLink)).map
        (fun t => (txBytes t.xlog, t.crc, t.ctx[0]?.map (fun c => c.pcount))) =
      some ([0x55#8, 0x50#8, 0x58#8, 0x4C#8, 0x00#8, 0x01#8, 0x03#8, 0x24#8, 0x01#8, 0x00#8, 0x10#8, 0x20#8, 0x30#8,
        0x4E#8, 0x80#8, 0x35#8, 0x92#8], 0x6DCA7FB1#32, some 1#16) := by decide +kernel

theorem test_txWrite_disabled :
    (after (exec (.txWrite .ses (.ctx 1#4) 300#16 []) sLink)).map (fun t => txBytes t.xlog) =
      some [0x55#8, 0x50#8, 0x58#8, 0x4C#8, 0x07#8, 0x01#8, 0x00#8, 0x1B#8, 0x2C#8, 0x01#8, 0xD3#8, 0x9D#8, 0xAD#8,
        0xB5#8] := by decide +kernel

theorem test_sOpen_ok :
    (after (exec .sOpen sShut)).map (fun t => (t.linkOpen, t.lastCommit, t.xlog, t.rsps)) =
      some (true, 1000#64, [.xOpen], [0#64]) := by decide +kernel

theorem test_sOpen_noDriver :
    (after (exec .sOpen { State.reset with answers := [.err 0x13#32] })).map (fun t => (t.linkOpen, t.xlog, t.rsps)) =
      some (false, [], [0x0000001300000005#64]) := by decide +kernel

theorem test_txCommit_closed_at_309 :
    (after (exec (.txCommit .ses) { sWait with samples := [1309#64] })).map (fun t => (t.phase, t.xlog, t.rsps)) =
      some (.wait, [.xOpen], []) := by decide +kernel

theorem test_txCommit_open_at_310 :
    (after (exec (.txCommit .ses) { sWait with samples := [1310#64, 1342#64] })).map
        (fun t => (t.phase, t.lastCommit, t.crc, txBytes t.xlog, t.rsps)) =
      some (.idle, 1342#64, 0x207EC764#32,
        [0x55#8, 0x50#8, 0x58#8, 0x4C#8, 0xFF#8, 0x02#8, 0x9B#8, 0x38#8, 0x81#8, 0xDF#8], [0#64]) := by decide +kernel

theorem test_sClose :
    (after (exec (.sClose .ses) sLink)).map (fun t => (t.linkOpen, t.xlog, t.rsps)) =
      some (false, [.xOpen, .xClose], [0#64]) := by decide +kernel

theorem test_sClose_twice : (after (exec (.sClose .ses) State.reset)).map (fun t => t.rsps) = some [2#64] := by decide +kernel

theorem test_step_runs_first_word :
    (after (step (State.reset.withFetchWord 64 0x0006))).map (fun t => (t.linkOpen, t.port)) = some (true, []) := by
  decide +kernel

/-! ## Witnesses: each statement's hypotheses can be met, clause by clause -/

/-- Two `CRC.UPD` and then a `CRC.FIN` at the port. -/
def sUpds : State :=
  { State.reset with
    port := [.command (encode (.crcUpd 0x31#8)), .command (encode (.crcUpd 0x32#8)), .command (encode .crcFin)] }

/-- `CRC.OF` of two bytes at the port. -/
def sCrcOf : State := { sUpds with port := .command (encode .crcInit) :: sUpds.port }

/-- A waiting commit, and a second one at the port, with samples for both. -/
def sTwoCommits : State :=
  { sWait with
    samples := [1310#64, 1342#64, 1400#64, 1652#64, 1700#64], port := [.command (encode (.txCommit .ses))] }

theorem witness_WellFormedCommandHasOneInstruction :
    (⟨0x0000000000010038#64, [1#8, 2#8, 3#8]⟩ : PortCommand).wf = true := by decide

theorem witness_IgnoredFieldsChangeNothing :
    State.reset.phase = .idle ∧ (0x1#64 ^^^ 0xFFFFFFFFFFFFFFF1#64) &&& usedMask (fieldOp 0x1#64) = 0#64 := by decide

theorem witness_ReservedOpcodeIsAnsweredIllegalCommand :
    let s : State := { State.reset with port := [.command ⟨0x0A#64, []⟩] }
    s.phase = .idle ∧ s.port = .command ⟨0x0A#64, []⟩ :: [] ∧ 10 ≤ ((0x0A#64).extractLsb' 0 4).toNat ∧
      (0xF0#64).extractLsb' 0 4 = 0#4 := by decide

theorem witness_StepRunsTheDecodedCommand :
    sUpds.phase = .idle ∧ (∃ rest, sUpds.port = .command (encode (.crcUpd 0x31#8)) :: rest) ∧
      decode (encode (.crcUpd 0x31#8)).word (encode (.crcUpd 0x31#8)).pix = .ok (.crcUpd 0x31#8) :=
  ⟨rfl, ⟨_, rfl⟩, rfl⟩

theorem witness_WaitingCoreAcceptsNothing : sWait.phase = .wait ∧ ∃ t, step sWait = .next t := ⟨rfl, _, rfl⟩

theorem witness_FinalStateStays : Final State.reset := ⟨rfl, rfl⟩

theorem witness_ResetGivesEveryRegisterItsValue :
    (State.resetWith 16).ctx[15]? = some ChanCtx.reset ∧ (State.resetWith 1).ctx[0]? = some ChanCtx.reset := by decide

theorem witness_HostResetReloadsTheRegisters :
    let s : State := { sLink with port := [.reset] }
    s.phase = .idle ∧ s.port = .reset :: [] := by decide

theorem witness_CrcUpdSequenceFoldsTheBytes :
    sUpds.phase = .idle ∧
      sUpds.port = [0x31#8, 0x32#8].map (fun b => .command (encode (.crcUpd b))) ++ [.command (encode .crcFin)] := by
  decide

theorem witness_ChecksumOfBytesThroughThePort :
    sCrcOf.phase = .idle ∧ sCrcOf.port = .command (encode .crcInit) ::
      [0x31#8, 0x32#8].map (fun b => .command (encode (.crcUpd b))) ++ .command (encode .crcFin) :: [] := by decide

theorem witness_CrcFinReturnsTheRecordsChecksum :
    (∃ t, exec (.txWrite .ses (.ctx 1#4) 5#16 []) sLink = .next t ∧ t.xlog ≠ sLink.xlog) ∧
      ∃ t, exec (.txCommit .ses) { sWait with samples := [1310#64, 1342#64] } = .next t ∧ t.xlog ≠ sWait.xlog :=
  ⟨⟨_, rfl, by decide +kernel⟩, ⟨_, rfl, by decide +kernel⟩⟩

/-- The channel statements: `c4` is absent in a file of four, `c3` is there. -/
theorem witness_channelReference :
    ChannelAbsent sCh .null ∧ ChannelAbsent sCh (.ctx 4#4) ∧ ChannelIs sCh (.ctx 3#4) 3 ChanCtx.reset ∧
      ChannelIs sCh (.ctx 0#4) 0 ctxNine :=
  ⟨.inl rfl, .inr ⟨4#4, rfl, by decide⟩, ⟨3#4, rfl, rfl, rfl⟩, ⟨0#4, rfl, rfl, rfl⟩⟩

/-- `CH.CFG` and `CH.KIND`: a kind that fails, each that passes, offsets at the boundary on both sides. -/
theorem witness_ChCfgStoresOrReports :
    ¬ ((1#8 : Byte) = 0#8 ∨ (1#8 : Byte) = 3#8 ∨ (1#8 : Byte) = 4#8) ∧
      ¬ ((255#8 : Byte) = 0#8 ∨ (255#8 : Byte) = 3#8 ∨ (255#8 : Byte) = 4#8) ∧
      ((4#8 : Byte) = 0#8 ∨ (4#8 : Byte) = 3#8 ∨ (4#8 : Byte) = 4#8) ∧
      ((3#8).toNat ≤ 3 ∧ (0#8).toNat ≤ 3) ∧ ¬ (4#8).toNat ≤ 3 := by decide

theorem witness_ChKindStoresOrReports :
    ¬ ((5#8 : Byte) = 0#8 ∨ (5#8 : Byte) = 3#8 ∨ (5#8 : Byte) = 4#8) ∧
      ((3#8 : Byte) = 0#8 ∨ (3#8 : Byte) = 3#8 ∨ (3#8 : Byte) = 4#8) := by decide

/-- A buffer one byte short has no record, one of exactly the length has. -/
theorem witness_ChannelWriteRecordLayout :
    encChannelWrite ctxRgb 1#16 [1#8, 2#8] = none ∧ (encChannelWrite ctxRgb 1#16 [1#8, 2#8, 3#8]).isSome = true := by
  decide +kernel

theorem witness_SOpenOpensOrReports :
    sLink.linkOpen = true ∧ sShut.linkOpen = false ∧ sShut.xportOpen = (.ok, { sShut with answers := [] }) ∧
      ({ sShut with answers := [] } : State).sampleNow =
        some (1000#64, { sShut with answers := [], samples := [], clkSeen := 1000#64 }) ∧
      ({ sShut with answers := [.err 0x13#32] } : State).xportOpen = (.err 0x13#32, { sShut with answers := [] }) := by
  decide

theorem witness_SOpenRunsOnListedInputs :
    sShut.linkOpen = false ∧ sShut.answers = .ok :: [] ∧ sShut.samples = 1000#64 :: [] ∧ sShut.clkSeen ≤ 1000#64 := by
  decide

/-- A sample equal to the largest so far is drawn, one below it is not, and the list may be empty. -/
theorem witness_ClockDrawIsMonotone :
    ({ sLink with samples := [1000#64] } : State).clkSeen ≤ 1000#64 ∧ 999#64 < ({ sLink with samples := [999#64] } : State).clkSeen ∧
      sLink.samples = [] := by decide

/-- A closed link whose only listed sample is below the largest so far. -/
def sShutLate : State := { sShut with clkSeen := 1001#64 }

/-- A waiting commit whose first listed sample decreases. -/
def sWaitLate : State := { sWait with samples := [999#64] }

/-- A waiting commit whose second listed sample decreases, after one that opens the gate. -/
def sWaitSecondLate : State := { sWait with samples := [1310#64, 1309#64] }

theorem witness_DecreasingSampleIsRefused :
    sShutLate.linkOpen = false ∧ sShutLate.answers = .ok :: [] ∧ sShutLate.samples = 1000#64 :: [] ∧
      1000#64 < sShutLate.clkSeen ∧
    sWaitLate.phase = .wait ∧ sWaitLate.samples = 999#64 :: [] ∧ 999#64 < sWaitLate.clkSeen ∧
    sWaitSecondLate.phase = .wait ∧ sWaitSecondLate.samples = 1310#64 :: 1309#64 :: [] ∧
      sWaitSecondLate.clkSeen ≤ 1310#64 ∧ 310 ≤ (1310#64 - sWaitSecondLate.lastCommit).toNat ∧
      1309#64 < 1310#64 := by decide

/-- Two bytes are one short of one RGB pixel, three are enough. -/
theorem witness_TxWriteSendsOrReports :
    ChannelIs sLink (.ctx 0#4) 0 ctxRgb ∧ ChannelAbsent sLink (.ctx 15#4) ∧ sLink.linkOpen = true ∧
      sCh.linkOpen = false ∧ [1#8, 2#8].length < (1#16).toNat * ctxRgb.width.toNat ∧
      (1#16).toNat * ctxRgb.width.toNat ≤ [1#8, 2#8, 3#8].length :=
  ⟨⟨0#4, rfl, rfl, rfl⟩, .inr ⟨15#4, rfl, by decide⟩, rfl, rfl, by decide, by decide⟩

theorem witness_TxWriteIgnoresExcessBytes :
    exec (.txWrite .ses (.ctx 1#4) 5#16 []) sLink ≠ .fault .pixUnderrun := by
  intro h
  cases h

theorem witness_TxWriteWithoutPixelsReadsNothing :
    ChannelIs sLink (.ctx 1#4) 1 ctxOff ∧ sLink.linkOpen = true ∧ ctxOff.width = 0#3 ∧ ((0#16 : BitVec 16) = 0#16) :=
  ⟨⟨1#4, rfl, rfl, rfl⟩, rfl, rfl, rfl⟩

theorem witness_TxCommitChecksWaitsAndCommits :
    sLink.phase = .idle ∧ sLink.linkOpen = true ∧ sCh.phase = .idle ∧ sCh.linkOpen = false ∧ sWait.phase = .wait ∧
      sWait.sampleNow = some (1100#64, { sWait with samples := [1309#64, 1310#64, 1342#64], clkSeen := 1100#64 }) ∧
      (1309#64 - sWait.lastCommit).toNat < 310 ∧ 310 ≤ (1310#64 - sWait.lastCommit).toNat ∧
      ({ sWait with samples := [1342#64], clkSeen := 1310#64 } : State).sampleNow =
        some (1342#64, { sWait with samples := [], clkSeen := 1342#64 }) := by decide

theorem witness_TxCommitRunsOnListedSamples :
    let s : State := { sLink with port := [.command ⟨0x19#64, []⟩], samples := [1310#64, 1342#64] }
    s.phase = .idle ∧ s.linkOpen = true ∧ s.port = .command ⟨0x19#64, []⟩ :: [] ∧ 0x19#64 &&& 0x1F#64 = 0x19#64 ∧
      s.samples = 1310#64 :: 1342#64 :: [] ∧ s.clkSeen ≤ 1310#64 ∧ 1310#64 ≤ 1342#64 ∧
      310 ≤ (1310#64 - s.lastCommit).toNat := by decide

theorem witness_GateOpensAtExactly310 :
    (1000#64 : Word64) ≤ 1309#64 ∧ (1000#64 : Word64) ≤ 1310#64 ∧ (1000#64).toNat + 310 ≤ (1310#64).toNat ∧
      ¬ (1000#64).toNat + 310 ≤ (1309#64).toNat := by decide

theorem witness_CommitCompletesAtTheFirstOpenSample :
    sWait.phase = .wait ∧ sWait.samples = [1100#64, 1309#64] ++ [1310#64, 1342#64] ∧
      MonotoneFrom sWait.clkSeen [1100#64, 1309#64] ∧
      (∀ c ∈ [1100#64, 1309#64], (c - sWait.lastCommit).toNat < 310) ∧
      MonotoneFrom sWait.clkSeen ([1100#64, 1309#64] ++ [1310#64, 1342#64]) ∧
      310 ≤ (1310#64 - sWait.lastCommit).toNat :=
  ⟨rfl, rfl, by simp [MonotoneFrom, sWait, sLink], by simp [sWait, sLink], by simp [MonotoneFrom, sWait, sLink],
    by simp [sWait, sLink]⟩

theorem witness_SCloseClosesOrReports : sLink.linkOpen = true ∧ sCh.linkOpen = false := by decide

/-- Every command comes to a next state somewhere (for the statements whose hypothesis is that it does). -/
theorem witness_EveryCommandKeepsWhatItDoesNotWrite :
    ([Instr.crcInit, .crcUpd 1#8, .crcFin, .chCfg (.ctx 0#4) 5#8 3#8 0#8 1#8 2#8 0#8, .chKind (.ctx 0#4) 4#8, .sOpen,
      .sClose .ses, .txWrite .ses (.ctx 1#4) 5#16 [], .txCommit .ses].all
        fun i => (after (exec i sWait)).isSome) = true := by decide +kernel

theorem witness_OutputTraceOnlyGrows :
    (∃ t, step { sLink with port := [.command (encode (.sClose .ses))] } = .next t) ∧
      ∃ t, step { sLink with port := [.reset] } = .next t := ⟨⟨_, rfl⟩, ⟨_, rfl⟩⟩

/-- A command that fails with `InvalidArgument`, and `S.OPEN` that fails with `NoDriver`. -/
theorem witness_FailedCommandChangesNothing :
    (∃ t, exec (.sClose .null) sLink = .next t ∧ t.rsps = sLink.rsps ++ [1#64] ∧ (1#64).extractLsb' 0 4 ≠ 0#4 ∧
      (1#64).extractLsb' 0 4 ≠ 5#4) ∧
      ∃ t, exec .sOpen { sShut with answers := [.err 0x13#32] } = .next t ∧
        t.rsps = sShut.rsps ++ [0x0000001300000005#64] ∧ (0x0000001300000005#64).extractLsb' 0 4 ≠ 0#4 :=
  ⟨⟨_, rfl, rfl, by decide, by decide⟩, ⟨_, rfl, rfl, by decide⟩⟩

theorem witness_EveryCommandGivesOneResponse : ∃ t, exec .crcFin sLink = .next t := ⟨_, rfl⟩

theorem witness_StatusIsOneTheTableLists : ∃ t, exec .crcFin sLink = .next t ∧ t.rsps ≠ sLink.rsps :=
  ⟨_, rfl, by decide⟩

theorem witness_StepsKeepResponsesLegal :
    (∀ w ∈ [0x0000001300000005#64], LegalResponse w) ∧
      ∃ t, step { sUpds with rsps := [0x0000001300000005#64] } = .next t := by
  refine ⟨?_, _, rfl⟩
  intro w hw
  rw [List.mem_singleton.mp hw]
  exact ⟨rfl, by decide⟩

theorem witness_RecordsDoNotDependOnTheChecksumRegister :
    ChannelIs sLink (.ctx 0#4) 0 ctxRgb ∧ sLink.linkOpen = true ∧
      (1#16).toNat * ctxRgb.width.toNat ≤ [1#8, 2#8, 3#8].length ∧
      ∃ t, exec (.txCommit .ses) { sWait with samples := [1310#64, 1342#64] } = .next t ∧ t.phase = .idle :=
  ⟨⟨0#4, rfl, rfl, rfl⟩, rfl, by decide, _, rfl, rfl⟩

theorem witness_ClockNeverGoesBack : ∃ t, step sWait = .next t ∧ sWait.clkSeen < t.clkSeen := ⟨_, rfl, by decide⟩

theorem witness_ResetMeetsTheInvariant : 1 ≤ 1 ∧ 1 ≤ 16 ∧ 16 ≤ 16 := by decide

/-- The invariant holds of a state that is not the reset state: a waiting commit, a second one at the port. -/
theorem witness_EveryStepKeepsTheInvariant : MachineInv sTwoCommits ∧ ∃ t, step sTwoCommits = .next t := by
  refine ⟨⟨by decide, ?_, rfl, ⟨[], rfl, by simp⟩, by decide, fun _ => rfl⟩, _, rfl⟩
  intro c hc
  simp only [sTwoCommits, sWait, sLink, List.mem_cons, List.not_mem_nil, or_false] at hc
  rcases hc with rfl | rfl | rfl | rfl <;> exact ⟨by decide, by decide⟩

/-- Two commits: the first completes at 1342; the second is accepted, finds the gate closed at 1400 and open at 1652. -/
theorem witness_ConsecutiveCommitsAre310Apart :
    ∃ u v v1 w, MachineInv sTwoCommits ∧ sTwoCommits.phase = .wait ∧ step sTwoCommits = .next u ∧ u.phase = .idle ∧
      runSteps 2 u = .next v ∧ v.phase = .wait ∧ v.sampleNow = some (1652#64, v1) ∧ step v = .next w ∧
      w.phase = .idle :=
  ⟨_, _, _, _, witness_EveryStepKeepsTheInvariant.1, rfl, rfl, rfl, rfl, rfl, rfl, rfl, rfl⟩

/-! ## The fairness of the clock -/

/-- A clock that shows the number of the draw, and stays at the largest value there. -/
def countingClock (k : Nat) : Word64 := BitVec.ofNat 64 (min k (2 ^ 64 - 1))

theorem countingClock_toNat (k : Nat) : (countingClock k).toNat = min k (2 ^ 64 - 1) := by
  rw [countingClock, BitVec.toNat_ofNat]
  omega

/-- A waiting commit whose session opened at microsecond 0, no sample listed. -/
def sWaitZero : State := { sWait with lastCommit := 0#64, clkSeen := 0#64, samples := [] }

theorem witness_FairClockCompletesTheCommit :
    sWaitZero.phase = .wait ∧ sWaitZero.clkSeen ≤ countingClock 0 ∧ ClockMonotone countingClock ∧
      ClockFair countingClock ∧ sWaitZero.lastCommit.toNat + 310 < 2 ^ 64 := by
  refine ⟨rfl, by decide, fun k => ?_, fun bound start hb => ⟨max start (bound + 1), by omega, ?_⟩, by decide⟩
  · rw [BitVec.le_def, countingClock_toNat, countingClock_toNat]
    omega
  · rw [countingClock_toNat]
    omega

theorem witness_CommitCompletesIffSomeSampleOpensTheGate :
    sWait.phase = .wait ∧ MonotoneFrom sWait.clkSeen sWait.samples := by simp [MonotoneFrom, sWait, sLink]

/-- Both closed samples of V-SES-18, after which the commit still waits. -/
theorem witness_WaitingRunIsNotFinal : WaitsFor 2 sWait ∧ ∃ t, runSteps 2 sWait = .next t := by
  refine ⟨fun j hj => ?_, _, rfl⟩
  rcases j with _ | _ | _ | j
  · exact ⟨_, rfl, rfl⟩
  · exact ⟨_, rfl, rfl⟩
  · exact ⟨_, rfl, rfl⟩
  · omega

end Sys2Proof.Tests
end

section
/-! PROOF. The invariant of spec/10_state.md R36 (family 00_scope.md): one rule for each operation of the state, one
lemma for each command that writes a register the invariant speaks of, and the two statements. -/

namespace Sys2Proof.Machine

/-! ### Contexts, traces and records -/

/-- R40: a context after reset is a Disabled one. -/
theorem ctxLegal_reset : CtxLegal ChanCtx.reset := ⟨.inl rfl, rfl⟩

/-- R120: a kind that passes the check is legal beside its width, whatever the other fields hold. -/
theorem ctxLegal_of_kindOk {c : ChanCtx} (hk : kindOk c.kind = true) (hw : c.width = widthOf c.kind) : CtxLegal c :=
  ⟨(kindOk_iff _).mp hk, by rw [hw, widthOf_of_kindOk _ hk]⟩

/-- `tx_bytes` of a trace in two parts. -/
theorem txBytes_append (xs ys : List XEvent) : txBytes (xs ++ ys) = txBytes xs ++ txBytes ys := by
  induction xs with
  | nil => rfl
  | cons e rest ih => cases e <;> simp [txBytes, ih]

/-- R36 (f): no bytes at all are whole records. -/
theorem wholeRecords_nil : WholeRecords [] := ⟨[], rfl, by simp⟩

/-- R36 (f): one more record after whole records. -/
theorem WholeRecords.append {bs r : List Byte} (h : WholeRecords bs) (hr : IsRecord r) : WholeRecords (bs ++ r) := by
  obtain ⟨rs, rfl, hrs⟩ := h
  refine ⟨rs ++ [r], by simp, fun x hx => ?_⟩
  rcases List.mem_append.mp hx with hx | hx
  · exact hrs x hx
  · rwa [List.mem_singleton.mp hx]

/-- R147: the record a write of a legal context sends, where the buffer is long enough. -/
theorem isRecord_bodyWrite {c : ChanCtx} {n : BitVec 16} {pix : List Byte} (hc : CtxLegal c)
    (hle : need n c.width ≤ pix.length) : IsRecord (record (bodyWrite c n (pix.take (need n c.width)))) :=
  .inr ⟨c, n, pix, hc, by simp [encChannelWrite, readPix, hle]⟩

/-! ### A drawn sample -/

theorem State.sampleNow_linkOpen {s s' : State} {now : Word64} (h : s.sampleNow = some (now, s')) :
    s'.linkOpen = s.linkOpen := by
  rw [(State.sampleNow_some h).2]

theorem State.sampleNow_le_clkSeen {s s' : State} {now : Word64} (h : s.sampleNow = some (now, s')) :
    now ≤ s'.clkSeen := by
  rw [(State.sampleNow_some h).2]
  exact BitVec.le_refl _

/-! ### What each operation of the state does to the invariant -/

/-- The invariant speaks of the registers, and of the largest clock sample only as an upper bound. -/
theorem MachineInv.of_sameRegisters {s t : State} (h : MachineInv s) (hr : SameRegisters s t)
    (hclk : s.clkSeen ≤ t.clkSeen) : MachineInv t := by
  obtain ⟨-, hctx, hlink, hlast, hphase, hlog⟩ := hr
  exact {
    size := hctx ▸ h.size
    legal := hctx ▸ h.legal
    trace := by rw [hlog, hlink]; exact h.trace
    records := hlog ▸ h.records
    clock := hlast ▸ BitVec.le_trans h.clock hclk
    waiting := by rw [hphase, hlink]; exact h.waiting }

theorem MachineInv.respond {s : State} (h : MachineInv s) (st : Status) (data : Word32) :
    MachineInv (s.respond st data) :=
  h.of_sameRegisters ⟨rfl, rfl, rfl, rfl, rfl, rfl⟩ (BitVec.le_refl _)

theorem MachineInv.withPort {s : State} (h : MachineInv s) (rest : List HostAction) :
    MachineInv { s with port := rest } :=
  h.of_sameRegisters ⟨rfl, rfl, rfl, rfl, rfl, rfl⟩ (BitVec.le_refl _)

theorem MachineInv.xportOpen {s : State} (h : MachineInv s) : MachineInv s.xportOpen.2 :=
  h.of_sameRegisters (by simp [SameRegisters]) (by simp)

theorem MachineInv.sampleNow {s s' : State} {now : Word64} (h : MachineInv s)
    (hs : s.sampleNow = some (now, s')) : MachineInv s' := by
  obtain ⟨hle, hs'⟩ := State.sampleNow_some hs
  rw [hs']
  exact h.of_sameRegisters ⟨rfl, rfl, rfl, rfl, rfl, rfl⟩ hle

/-- The checksum register is free in R36. -/
theorem MachineInv.withCrc {s : State} (h : MachineInv s) (v : Word32) : MachineInv { s with crc := v } :=
  ⟨h.size, h.legal, h.trace, h.records, h.clock, h.waiting⟩

theorem MachineInv.setContext {s : State} (h : MachineInv s) (i : Nat) {c : ChanCtx} (hc : CtxLegal c) :
    MachineInv (s.setContext i c) where
  size := by simpa using h.size
  legal := by
    intro d hd
    rcases List.mem_or_eq_of_mem_set hd with hd | rfl
    · exact h.legal d hd
    · exact hc
  trace := h.trace
  records := h.records
  clock := h.clock
  waiting := h.waiting

/-- R36 (e), (f): a record goes out over an open link, whole. -/
theorem MachineInv.sendRecord {s : State} (h : MachineInv s) (hl : s.linkOpen = true) {body : List Byte}
    (hb : IsRecord (record body)) : MachineInv (s.sendRecord body) where
  size := h.size
  legal := h.legal
  trace := by simp [linkAfter_append, h.trace, hl, linkAfter_bytes]
  records := by
    rw [State.sendRecord_xlog, txBytes_append_bytes]
    exact h.records.append hb
  clock := h.clock
  waiting := h.waiting

/-- R162: opening a closed link at a sample already taken. -/
theorem MachineInv.openLink {s : State} (h : MachineInv s) (hl : s.linkOpen = false) {now : Word64}
    (hnow : now ≤ s.clkSeen) : MachineInv ({ s with linkOpen := true, lastCommit := now }.logEvent .xOpen) where
  size := h.size
  legal := h.legal
  trace := by simp [linkAfter_append, h.trace, hl, linkAfter]
  records := by simpa [txBytes_append, txBytes] using h.records
  clock := hnow
  waiting _ := rfl

/-- R176: closing an open link, which no commit is waiting on. -/
theorem MachineInv.closeLink {s : State} (h : MachineInv s) (hl : s.linkOpen = true) (hp : s.phase = .idle) :
    MachineInv ({ s with linkOpen := false }.logEvent .xClose) where
  size := h.size
  legal := h.legal
  trace := by simp [linkAfter_append, h.trace, hl, linkAfter]
  records := by simpa [txBytes_append, txBytes] using h.records
  clock := h.clock
  waiting := by simp [hp]

/-- R172: a commit may begin to wait where the link is open. -/
theorem MachineInv.beginWait {s : State} (h : MachineInv s) (hl : s.linkOpen = true) :
    MachineInv { s with phase := .wait } :=
  ⟨h.size, h.legal, h.trace, h.records, h.clock, fun _ => hl⟩

/-- R172: the end of a commit, at a sample already taken. -/
theorem MachineInv.endWait {s : State} (h : MachineInv s) {now : Word64} (hnow : now ≤ s.clkSeen) :
    MachineInv { s with lastCommit := now, phase := .idle } :=
  ⟨h.size, h.legal, h.trace, h.records, hnow, nofun⟩

/-- R40: the reset state of a size R5 allows. -/
theorem machineInv_resetWith {n : Nat} (h1 : 1 ≤ n) (h16 : n ≤ 16) : MachineInv (State.resetWith n) where
  size := by simpa [State.resetWith] using ⟨h1, h16⟩
  legal := by
    intro c hc
    rw [List.eq_of_mem_replicate hc]
    exact ctxLegal_reset
  trace := rfl
  records := wholeRecords_nil
  clock := BitVec.le_refl _
  waiting := nofun

/-- R220: a reset the host asserts gives the registers of the reset state of the machine's own size. -/
theorem MachineInv.assertReset {s : State} (h : MachineInv s) : MachineInv s.assertReset :=
  (machineInv_resetWith h.size.1 h.size.2).of_sameRegisters ⟨rfl, rfl, rfl, rfl, rfl, rfl⟩
    (BitVec.le_def.mpr (Nat.zero_le _))

/-- A context that a reference resolves to is legal. -/
theorem MachineInv.channel_legal {s : State} (h : MachineInv s) {ch : ChanRef} {k : Nat} {c : ChanCtx}
    (hc : s.channel ch = some (k, c)) : CtxLegal c := by
  obtain ⟨i, -, -, hget⟩ := State.channel_some hc
  exact h.legal c (List.mem_of_getElem? hget)

/-! ### What each command does to the invariant -/

theorem MachineInv.execChCfg {ch : ChanRef} {num kind r g b w : Byte} {s t : State} (h : MachineInv s)
    (he : execChCfg ch num kind r g b w s = .next t) : MachineInv t := by
  rcases execChCfg_next he with ⟨st, -, rfl⟩ | ⟨k, c, -, hk, -, rfl⟩
  · exact h.respond st 0
  · exact (h.setContext k (ctxLegal_of_kindOk hk rfl)).respond .ok 0

theorem MachineInv.execChKind {ch : ChanRef} {kind : Byte} {s t : State} (h : MachineInv s)
    (he : execChKind ch kind s = .next t) : MachineInv t := by
  rcases execChKind_next he with ⟨st, -, rfl⟩ | ⟨k, c, -, hk, rfl⟩
  · exact h.respond st 0
  · exact (h.setContext k (ctxLegal_of_kindOk hk rfl)).respond .ok 0

theorem MachineInv.execSOpen {s t : State} (h : MachineInv s) (he : execSOpen s = .next t) : MachineInv t := by
  rcases execSOpen_next he with ⟨-, rfl⟩ | ⟨-, code, -, rfl⟩ | ⟨hl, -, now, s2, hs, rfl⟩
  · exact h.respond .busy 0
  · exact h.xportOpen.respond .noDriver code
  · have hl2 : s2.linkOpen = false := by rw [State.sampleNow_linkOpen hs, State.xportOpen_linkOpen, hl]
    exact ((h.xportOpen.sampleNow hs).openLink hl2 (State.sampleNow_le_clkSeen hs)).respond .ok 0

theorem MachineInv.execSClose {sr : SesRef} {s t : State} (h : MachineInv s) (hp : s.phase = .idle)
    (he : execSClose sr s = .next t) : MachineInv t := by
  rcases execSClose_next he with ⟨st, -, rfl⟩ | ⟨-, hl, rfl⟩
  · exact h.respond st 0
  · exact (h.closeLink hl hp).respond .ok 0

/-- R165: the record that is sent is that of the legal context the reference names, and the count stored back leaves
the context legal. -/
theorem MachineInv.execTxWrite {sr : SesRef} {ch : ChanRef} {n : BitVec 16} {pix : List Byte} {s t : State}
    (h : MachineInv s) (he : execTxWrite sr ch n pix s = .next t) : MachineInv t := by
  rcases execTxWrite_next he with ⟨st, -, rfl⟩ | ⟨k, c, -, hc, hl, hle, rfl⟩
  · exact h.respond st 0
  · have hlegal : CtxLegal c := h.channel_legal hc
    have hcount : CtxLegal { c with pcount := n } := hlegal
    exact ((h.sendRecord hl (isRecord_bodyWrite hlegal hle)).setContext k hcount).respond .ok 0

/-- R172: a poll of a waiting commit, whose link is open. -/
theorem MachineInv.commitPoll {s t : State} (h : MachineInv s) (hl : s.linkOpen = true)
    (he : s.commitPoll = .next t) : MachineInv t := by
  rcases State.commitPoll_next he with ⟨t1, hs, -⟩ | ⟨t1, s1, t2, s2, hs1, -, hs2, rfl⟩
  · exact h.sampleNow hs
  · have hl2 : s2.linkOpen = true := by rw [State.sampleNow_linkOpen hs2, State.sampleNow_linkOpen hs1, hl]
    have hnow : t2 ≤ s2.clkSeen := State.sampleNow_le_clkSeen hs2
    have hsent : MachineInv (s2.sendRecord bodyCommit) := ((h.sampleNow hs1).sampleNow hs2).sendRecord hl2 (.inl rfl)
    exact (hsent.endWait hnow).respond .ok 0

theorem MachineInv.execTxCommit {sr : SesRef} {s t : State} (h : MachineInv s)
    (he : execTxCommit sr s = .next t) : MachineInv t := by
  rcases execTxCommit_next he with ⟨-, st, -, rfl⟩ | ⟨-, -, hl, rfl⟩ | ⟨hp, hpoll⟩
  · exact h.respond st 0
  · exact h.beginWait hl
  · exact h.commitPoll (h.waiting hp) hpoll

/-- Every command an idle core runs keeps the invariant. -/
theorem MachineInv.exec_idle {i : Instr} {s t : State} (h : MachineInv s) (hp : s.phase = .idle)
    (he : exec i s = .next t) : MachineInv t := by
  cases i with
  | crcInit => cases he; exact (h.withCrc _).respond _ _
  | crcUpd b => cases he; exact (h.withCrc _).respond _ _
  | crcFin => cases he; exact h.respond _ _
  | chCfg ch num kind r g b w => exact h.execChCfg he
  | chKind ch kind => exact h.execChKind he
  | sOpen => exact h.execSOpen he
  | sClose sr => exact h.execSClose hp he
  | txWrite sr ch n pix => exact h.execTxWrite he
  | txCommit sr => exact h.execTxCommit he

/-- Every step keeps the invariant. -/
theorem MachineInv.step {s t : State} (h : MachineInv s) (hs : step s = .next t) : MachineInv t := by
  rcases step_next hs with ⟨-, he⟩ | ⟨-, -, rfl⟩ | ⟨-, rest, -, rfl⟩ | ⟨-, c, rest, -, -, rfl⟩ |
    ⟨hp, c, rest, i, -, -, he⟩
  · exact h.execTxCommit he
  · exact h
  · exact (h.withPort rest).assertReset
  · exact (h.withPort rest).respond .illegalCommand 0
  · exact (h.withPort rest).exec_idle hp he

/-! ### The statements -/

/-- Settles O46: a step is one of the cases of `step_next`, and each keeps the invariant. -/
theorem everyStepKeepsTheInvariant : Obligations.EveryStepKeepsTheInvariant := by
  unfold Obligations.EveryStepKeepsTheInvariant
  intro s t h hs
  exact h.step hs

/-- Settles O45: the reset state has an empty trace and Disabled contexts. -/
theorem resetMeetsTheInvariant : Obligations.ResetMeetsTheInvariant := by
  unfold Obligations.ResetMeetsTheInvariant
  intro n h1 h16
  exact machineInv_resetWith h1 h16

end Sys2Proof.Machine
end

section
/-! PROOF. The clock, the frame of every command, and the waiting commit (family 10_state.md): one rule for each
operation of the state, what a poll does in each of its cases, and the statements. -/

namespace Sys2Proof.Machine

/-! ### A draw of the clock (R33) -/

/-- R33, U10: a listed sample smaller than an earlier one is not drawn. -/
theorem State.sampleNow_none_of_lt {s : State} {now : Word64} {rest : List Word64} (hs : s.samples = now :: rest)
    (hlt : now < s.clkSeen) : s.sampleNow = none := by
  simp [State.sampleNow, hs, BitVec.not_le.mpr hlt]

/-- Past the listed samples a draw always succeeds. -/
theorem State.sampleNow_nil {s : State} (hs : s.samples = []) : ∃ now, s.clkSeen ≤ now ∧
    s.sampleNow = some (now, { s with clkSeen := now, draws := s.draws + 1 }) := by
  simp only [State.sampleNow, hs]
  refine ⟨_, ?_, rfl⟩
  split
  · assumption
  · exact BitVec.le_refl _

theorem State.sampleNow_xlog {s s' : State} {now : Word64} (h : s.sampleNow = some (now, s')) : s'.xlog = s.xlog := by
  rw [(State.sampleNow_some h).2]

theorem State.sampleNow_lastCommit {s s' : State} {now : Word64} (h : s.sampleNow = some (now, s')) :
    s'.lastCommit = s.lastCommit := by
  rw [(State.sampleNow_some h).2]

theorem State.sampleNow_phase {s s' : State} {now : Word64} (h : s.sampleNow = some (now, s')) :
    s'.phase = s.phase := by
  rw [(State.sampleNow_some h).2]

theorem State.sampleNow_rsps {s s' : State} {now : Word64} (h : s.sampleNow = some (now, s')) : s'.rsps = s.rsps := by
  rw [(State.sampleNow_some h).2]

theorem State.sampleNow_clkSeen_le {s s' : State} {now : Word64} (h : s.sampleNow = some (now, s')) :
    s.clkSeen ≤ s'.clkSeen := by
  obtain ⟨hle, hs'⟩ := State.sampleNow_some h
  rw [hs']
  exact hle

/-- R33: from listed samples that do not decrease a sample can be drawn, and those left do not decrease either. -/
theorem State.sampleNow_of_monotone {s : State} (h : MonotoneFrom s.clkSeen s.samples) :
    ∃ now s', s.sampleNow = some (now, s') ∧ MonotoneFrom s'.clkSeen s'.samples := by
  cases hs : s.samples with
  | nil =>
    obtain ⟨now, -, hn⟩ := State.sampleNow_nil hs
    exact ⟨now, _, hn, by simp [hs, MonotoneFrom]⟩
  | cons now rest =>
    rw [hs] at h
    obtain ⟨hle, hrest⟩ := h
    exact ⟨now, _, State.sampleNow_cons hs hle, hrest⟩

/-! ### What the core runs (R30, R31) -/

/-- R30, R172: whatever session it names, a commit that waits is polled. -/
theorem exec_txCommit_of_wait {s : State} (hp : s.phase = .wait) (sr : SesRef) :
    exec (.txCommit sr) s = s.commitPoll := by
  simp [exec, execTxCommit, hp]

/-- R172: an idle core makes the checks of a commit. -/
theorem exec_txCommit_of_idle {s : State} (hp : s.phase = .idle) (sr : SesRef) :
    exec (.txCommit sr) s = s.commitAccept sr := by
  simp [exec, execTxCommit, hp]

/-- R73: while a commit waits, a step runs it. -/
theorem step_of_wait {s : State} (hp : s.phase = .wait) : step s = exec (.txCommit .ses) s := by
  simp [step, State.fetch, hp]

/-- R31, R62: an idle core runs the command at the head of the host's list. -/
theorem step_of_command {s : State} {c : PortCommand} {rest : List HostAction} {i : Instr} (hp : s.phase = .idle)
    (hq : s.port = .command c :: rest) (hd : decode c.word c.pix = .ok i) :
    step s = exec i { s with port := rest } := by
  simp [step, State.fetch, hp, hq, hd]

/-! ### Opening a closed link (R162) -/

/-- The factory says `ok` and a sample is drawn: the link opens at that sample. -/
theorem exec_sOpen_of_ok {s s1 s2 : State} {now : Word64} (hl : s.linkOpen = false) (hx : s.xportOpen = (.ok, s1))
    (hn : s1.sampleNow = some (now, s2)) :
    exec .sOpen s = .next (({ s2 with linkOpen := true, lastCommit := now }.logEvent .xOpen).respond .ok 0) := by
  simp [exec, execSOpen, hl, hx, hn]

/-- The factory says `ok` and no sample is drawn: the command is refused. -/
theorem exec_sOpen_of_ok_none {s s1 : State} (hl : s.linkOpen = false) (hx : s.xportOpen = (.ok, s1))
    (hn : s1.sampleNow = none) : exec .sOpen s = .refused .clockNotMonotone := by
  simp [exec, execSOpen, hl, hx, hn]

/-! ### One poll (R172) -/

/-- The first sample finds the gate closed: nothing but the clock's inputs changes. -/
theorem State.commitPoll_of_closed {s s1 : State} {t1 : Word64} (h1 : s.sampleNow = some (t1, s1))
    (hc : (t1 - s.lastCommit).toNat < 310) : s.commitPoll = .next s1 := by
  rw [← State.sampleNow_lastCommit h1, ← gateOpen_false_iff] at hc
  simp [State.commitPoll, h1, hc]

/-- The first sample opens the gate: the record goes out, and the second sample is stored. -/
theorem State.commitPoll_of_open {s s1 s2 : State} {t1 t2 : Word64} (h1 : s.sampleNow = some (t1, s1))
    (ho : 310 ≤ (t1 - s.lastCommit).toNat) (h2 : s1.sampleNow = some (t2, s2)) :
    s.commitPoll = .next ({ s2.sendRecord bodyCommit with lastCommit := t2, phase := .idle }.respond .ok 0) := by
  rw [← State.sampleNow_lastCommit h1, ← gateOpen_iff] at ho
  simp [State.commitPoll, h1, ho, State.sendRecord_sampleNow, h2]

/-- The first sample opens the gate and the second is not drawn: the poll is refused, and no record goes out. -/
theorem State.commitPoll_of_open_none {s s1 : State} {t1 : Word64} (h1 : s.sampleNow = some (t1, s1))
    (ho : 310 ≤ (t1 - s.lastCommit).toNat) (h2 : s1.sampleNow = none) :
    s.commitPoll = .refused .clockNotMonotone := by
  rw [← State.sampleNow_lastCommit h1, ← gateOpen_iff] at ho
  simp [State.commitPoll, h1, ho, State.sendRecord_sampleNow, h2]

/-- R172: what can become of a `TX.COMMIT` that comes to a next state, its checks and its polls taken together. -/
theorem exec_txCommit_next {sr : SesRef} {s t : State} (h : exec (.txCommit sr) s = .next t) :
    (∃ st, t = s.respond st 0) ∨
    (s.linkOpen = true ∧ t = { s with phase := .wait }) ∨
    (∃ t1, s.sampleNow = some (t1, t)) ∨
    (∃ t1 s1 t2 s2, s.sampleNow = some (t1, s1) ∧ s1.sampleNow = some (t2, s2) ∧
      t = { s2.sendRecord bodyCommit with lastCommit := t2, phase := .idle }.respond .ok 0) := by
  rcases execTxCommit_next h with ⟨-, st, -, ht⟩ | ⟨-, -, hl, ht⟩ | ⟨-, hpoll⟩
  · exact .inl ⟨st, ht⟩
  · exact .inr (.inl ⟨hl, ht⟩)
  · rcases State.commitPoll_next hpoll with ⟨t1, h1, -⟩ | ⟨t1, s1, t2, s2, h1, -, h2, ht⟩
    · exact .inr (.inr (.inl ⟨t1, h1⟩))
    · exact .inr (.inr (.inr ⟨t1, s1, t2, s2, h1, h2, ht⟩))

/-- The record of R148, byte by byte. -/
theorem record_bodyCommit : record bodyCommit =
    [0x55#8, 0x50#8, 0x58#8, 0x4C#8, 0xFF#8, 0x02#8, 0x9B#8, 0x38#8, 0x81#8, 0xDF#8] := by decide

/-- The running checksum R148 leaves. -/
theorem crcBytes_bodyCommit : crcBytes crcInitValue bodyCommit = 0x207EC764#32 := by decide

/-- R148, R172: the end of a commit, with each value of the commit record written out. -/
theorem State.endCommit_eq (s : State) (t2 : Word64) :
    { s.sendRecord bodyCommit with lastCommit := t2, phase := .idle }.respond .ok 0 =
      { s with
        xlog := s.xlog ++ encCommit.map .xByte, crc := 0x207EC764#32, lastCommit := t2, phase := .idle,
        rsps := s.rsps ++ [0#64] } := by
  rw [← crcBytes_bodyCommit]
  rfl

/-! ### The frame of every command (R41) -/

/-- R41, R22, R164: `t` holds what `s` holds wherever the row of `i` has no w. -/
structure KeepsUnwritten (i : Instr) (s t : State) : Prop where
  crc     : writesCrc i = false → t.crc = s.crc
  ctx     : ∀ k, writesContext i ≠ some k → t.ctx[k]? = s.ctx[k]?
  size    : t.ctx.length = s.ctx.length
  link    : writesLink i = false → t.linkOpen = s.linkOpen
  clock   : usesClock i = false →
    t.lastCommit = s.lastCommit ∧ t.samples = s.samples ∧ t.clkSeen = s.clkSeen ∧ t.draws = s.draws
  phase   : (∀ sr, i ≠ .txCommit sr) → t.phase = s.phase
  trace   : writesTrace i = false → t.xlog = s.xlog
  answers : i ≠ .sOpen → t.answers = s.answers
  port    : t.port = s.port

namespace KeepsUnwritten

variable {i : Instr} {s t t' : State}

theorem refl (i : Instr) (s : State) : KeepsUnwritten i s s :=
  ⟨fun _ => rfl, fun _ _ => rfl, rfl, fun _ => rfl, fun _ => ⟨rfl, rfl, rfl, rfl⟩, fun _ => rfl, fun _ => rfl,
    fun _ => rfl, rfl⟩

theorem respond (h : KeepsUnwritten i s t) (st : Status) (data : Word32) : KeepsUnwritten i s (t.respond st data) :=
  { h with }

theorem withCrc (h : KeepsUnwritten i s t) (hw : writesCrc i = true) (v : Word32) :
    KeepsUnwritten i s { t with crc := v } :=
  { h with crc := by simp [hw] }

theorem setContext (h : KeepsUnwritten i s t) {k : Nat} (hw : writesContext i = some k) (c : ChanCtx) :
    KeepsUnwritten i s (t.setContext k c) :=
  { h with
    ctx := fun j hj => by
      rw [hw, ne_eq, Option.some.injEq] at hj
      rw [State.setContext_ctx, List.getElem?_set_ne hj, h.ctx j (by simpa [hw] using hj)]
    size := by simpa using h.size }

theorem withLink (h : KeepsUnwritten i s t) (hw : writesLink i = true) (l : Bool) :
    KeepsUnwritten i s { t with linkOpen := l } :=
  { h with link := by simp [hw] }

theorem withLastCommit (h : KeepsUnwritten i s t) (hw : usesClock i = true) (now : Word64) :
    KeepsUnwritten i s { t with lastCommit := now } :=
  { h with clock := by simp [hw] }

theorem withPhase {sr : SesRef} (h : KeepsUnwritten (.txCommit sr) s t) (p : Phase) :
    KeepsUnwritten (.txCommit sr) s { t with phase := p } :=
  { h with phase := fun hne => absurd rfl (hne sr) }

theorem logEvent (h : KeepsUnwritten i s t) (hw : writesTrace i = true) (e : XEvent) :
    KeepsUnwritten i s (t.logEvent e) :=
  { h with trace := by simp [hw] }

theorem sendRecord (h : KeepsUnwritten i s t) (hc : writesCrc i = true) (hw : writesTrace i = true)
    (body : List Byte) : KeepsUnwritten i s (t.sendRecord body) :=
  { h with crc := by simp [hc], trace := by simp [hw] }

theorem sampleNow (h : KeepsUnwritten i s t) (hw : usesClock i = true) {now : Word64}
    (hs : t.sampleNow = some (now, t')) : KeepsUnwritten i s t' := by
  rw [(State.sampleNow_some hs).2]
  exact { h with clock := by simp [hw] }

theorem xportOpen (h : KeepsUnwritten .sOpen s t) : KeepsUnwritten .sOpen s t.xportOpen.2 := by
  rw [State.xportOpen_snd]
  exact { h with clock := nofun, answers := fun hne => absurd rfl hne }

/-! What each command with more than one outcome keeps. -/

theorem execChCfg {ch : ChanRef} {num kind r g b w : Byte} (he : execChCfg ch num kind r g b w s = .next t) :
    KeepsUnwritten (.chCfg ch num kind r g b w) s t := by
  rcases execChCfg_next he with ⟨st, -, rfl⟩ | ⟨k, c, hc, -, -, rfl⟩
  · exact (refl _ s).respond st 0
  · obtain ⟨i, rfl, rfl, -⟩ := State.channel_some hc
    exact ((refl _ s).setContext rfl _).respond .ok 0

theorem execChKind {ch : ChanRef} {kind : Byte} (he : execChKind ch kind s = .next t) :
    KeepsUnwritten (.chKind ch kind) s t := by
  rcases execChKind_next he with ⟨st, -, rfl⟩ | ⟨k, c, hc, -, rfl⟩
  · exact (refl _ s).respond st 0
  · obtain ⟨i, rfl, rfl, -⟩ := State.channel_some hc
    exact ((refl _ s).setContext rfl _).respond .ok 0

theorem execSOpen (he : execSOpen s = .next t) : KeepsUnwritten .sOpen s t := by
  rcases execSOpen_next he with ⟨-, rfl⟩ | ⟨-, code, -, rfl⟩ | ⟨-, -, now, s2, hs, rfl⟩
  · exact (refl _ s).respond .busy 0
  · exact (refl _ s).xportOpen.respond .noDriver code
  · have hdrawn : KeepsUnwritten .sOpen s s2 := (refl _ s).xportOpen.sampleNow rfl hs
    exact (((hdrawn.withLink rfl true).withLastCommit rfl now).logEvent rfl .xOpen).respond .ok 0

theorem execSClose {sr : SesRef} (he : execSClose sr s = .next t) : KeepsUnwritten (.sClose sr) s t := by
  rcases execSClose_next he with ⟨st, -, rfl⟩ | ⟨-, -, rfl⟩
  · exact (refl _ s).respond st 0
  · exact (((refl _ s).withLink rfl false).logEvent rfl .xClose).respond .ok 0

theorem execTxWrite {sr : SesRef} {ch : ChanRef} {n : BitVec 16} {pix : List Byte}
    (he : execTxWrite sr ch n pix s = .next t) : KeepsUnwritten (.txWrite sr ch n pix) s t := by
  rcases execTxWrite_next he with ⟨st, -, rfl⟩ | ⟨k, c, -, hc, -, -, rfl⟩
  · exact (refl _ s).respond st 0
  · obtain ⟨i, rfl, rfl, -⟩ := State.channel_some hc
    exact (((refl _ s).sendRecord rfl rfl _).setContext rfl _).respond .ok 0

theorem execTxCommit {sr : SesRef} (he : exec (.txCommit sr) s = .next t) : KeepsUnwritten (.txCommit sr) s t := by
  rcases exec_txCommit_next he with ⟨st, rfl⟩ | ⟨-, rfl⟩ | ⟨t1, h1⟩ | ⟨t1, s1, t2, s2, h1, h2, rfl⟩
  · exact (refl _ s).respond st 0
  · exact (refl _ s).withPhase .wait
  · exact (refl _ s).sampleNow rfl h1
  · have hdrawn : KeepsUnwritten (.txCommit sr) s s2 := ((refl _ s).sampleNow rfl h1).sampleNow rfl h2
    exact (((hdrawn.sendRecord rfl rfl bodyCommit).withLastCommit rfl t2).withPhase .idle).respond .ok 0

end KeepsUnwritten

/-- R41: every command keeps what its row gives no w. -/
theorem exec_keepsUnwritten {i : Instr} {s t : State} (he : exec i s = .next t) : KeepsUnwritten i s t := by
  cases i with
  | crcInit => cases he; exact ((KeepsUnwritten.refl _ s).withCrc rfl _).respond _ _
  | crcUpd b => cases he; exact ((KeepsUnwritten.refl _ s).withCrc rfl _).respond _ _
  | crcFin => cases he; exact (KeepsUnwritten.refl _ s).respond _ _
  | chCfg ch num kind r g b w => exact KeepsUnwritten.execChCfg he
  | chKind ch kind => exact KeepsUnwritten.execChKind he
  | sOpen => exact KeepsUnwritten.execSOpen he
  | sClose sr => exact KeepsUnwritten.execSClose he
  | txWrite sr ch n pix => exact KeepsUnwritten.execTxWrite he
  | txCommit sr => exact KeepsUnwritten.execTxCommit he

/-! ### What every step does to the trace, the clock and the last commit -/

/-- R35, R55: a command only appends to the output trace. -/
theorem exec_xlog_extends {i : Instr} {s t : State} (he : exec i s = .next t) : s.xlog <+: t.xlog := by
  have hkeep : writesTrace i = false → s.xlog <+: t.xlog := fun hw => by rw [(exec_keepsUnwritten he).trace hw]
  cases i with
  | crcInit | crcUpd b | crcFin | chCfg ch num kind r g b w | chKind ch kind => exact hkeep rfl
  | sOpen =>
    rcases execSOpen_next he with ⟨-, rfl⟩ | ⟨-, code, -, rfl⟩ | ⟨-, -, now, s2, hs, rfl⟩
    · exact List.prefix_rfl
    · simp
    · simp [State.sampleNow_xlog hs]
  | sClose sr =>
    rcases execSClose_next he with ⟨st, -, rfl⟩ | ⟨-, -, rfl⟩ <;> simp
  | txWrite sr ch n pix =>
    rcases execTxWrite_next he with ⟨st, -, rfl⟩ | ⟨k, c, -, -, -, -, rfl⟩ <;> simp
  | txCommit sr =>
    rcases exec_txCommit_next he with ⟨st, rfl⟩ | ⟨-, rfl⟩ | ⟨t1, h1⟩ | ⟨t1, s1, t2, s2, h1, h2, rfl⟩
    · exact List.prefix_rfl
    · exact List.prefix_rfl
    · rw [State.sampleNow_xlog h1]
    · simp [State.sampleNow_xlog h2, State.sampleNow_xlog h1]

/-- R33: no command takes the largest sample back. -/
theorem exec_clkSeen_le {i : Instr} {s t : State} (he : exec i s = .next t) : s.clkSeen ≤ t.clkSeen := by
  have hkeep : usesClock i = false → s.clkSeen ≤ t.clkSeen := fun hu => by
    obtain ⟨-, -, hclk, -⟩ := (exec_keepsUnwritten he).clock hu
    rw [hclk]
    exact BitVec.le_refl _
  cases i with
  | crcInit | crcUpd b | crcFin | chCfg ch num kind r g b w | chKind ch kind | sClose sr | txWrite sr ch n pix =>
    exact hkeep rfl
  | sOpen =>
    rcases execSOpen_next he with ⟨-, rfl⟩ | ⟨-, code, -, rfl⟩ | ⟨-, -, now, s2, hs, rfl⟩
    · exact BitVec.le_refl _
    · simp
    · simpa using State.sampleNow_clkSeen_le hs
  | txCommit sr =>
    rcases exec_txCommit_next he with ⟨st, rfl⟩ | ⟨-, rfl⟩ | ⟨t1, h1⟩ | ⟨t1, s1, t2, s2, h1, h2, rfl⟩
    · exact BitVec.le_refl _
    · exact BitVec.le_refl _
    · exact State.sampleNow_clkSeen_le h1
    · have h12 : s.clkSeen ≤ s2.clkSeen :=
        BitVec.le_trans (State.sampleNow_clkSeen_le h1) (State.sampleNow_clkSeen_le h2)
      exact h12

/-- R29, R162, R172: where a command leaves the link open, it was open before and the last commit is as it was, or the
last commit is a sample drawn since. -/
theorem exec_lastCommit {i : Instr} {s t : State} (he : exec i s = .next t) (hl : t.linkOpen = true) :
    (s.linkOpen = true ∧ t.lastCommit = s.lastCommit) ∨ s.clkSeen ≤ t.lastCommit := by
  have hkeep : writesLink i = false → usesClock i = false →
      (s.linkOpen = true ∧ t.lastCommit = s.lastCommit) ∨ s.clkSeen ≤ t.lastCommit := fun hw hu => by
    have hk := exec_keepsUnwritten he
    exact .inl ⟨hk.link hw ▸ hl, (hk.clock hu).1⟩
  cases i with
  | crcInit | crcUpd b | crcFin | chCfg ch num kind r g b w | chKind ch kind | txWrite sr ch n pix =>
    exact hkeep rfl rfl
  | sOpen =>
    rcases execSOpen_next he with ⟨hs, rfl⟩ | ⟨hs, code, -, rfl⟩ | ⟨-, -, now, s2, hs, rfl⟩
    · exact .inl ⟨hs, rfl⟩
    · simp [hs] at hl
    · exact .inr (by simpa using (State.sampleNow_some hs).1)
  | sClose sr =>
    rcases execSClose_next he with ⟨st, -, rfl⟩ | ⟨-, -, rfl⟩
    · exact .inl ⟨hl, rfl⟩
    · cases hl
  | txCommit sr =>
    rcases exec_txCommit_next he with ⟨st, rfl⟩ | ⟨hs, rfl⟩ | ⟨t1, h1⟩ | ⟨t1, s1, t2, s2, h1, h2, rfl⟩
    · exact .inl ⟨hl, rfl⟩
    · exact .inl ⟨hs, rfl⟩
    · exact .inl ⟨State.sampleNow_linkOpen h1 ▸ hl, State.sampleNow_lastCommit h1⟩
    · exact .inr (BitVec.le_trans (State.sampleNow_clkSeen_le h1) (State.sampleNow_some h2).1)

/-- R33: no step takes the largest sample back. -/
theorem step_clkSeen_le {s t : State} (h : step s = .next t) : s.clkSeen ≤ t.clkSeen := by
  rcases step_next h with ⟨-, he⟩ | ⟨-, -, rfl⟩ | ⟨-, rest, -, rfl⟩ | ⟨-, c, rest, -, -, rfl⟩ |
    ⟨-, c, rest, i, -, -, he⟩
  · exact exec_clkSeen_le he
  · exact BitVec.le_refl _
  · exact BitVec.le_refl _
  · exact BitVec.le_refl _
  · exact exec_clkSeen_le (s := { s with port := rest }) he

/-- What `exec_lastCommit` says of commands holds of steps: a reset leaves the link closed. -/
theorem step_lastCommit {s t : State} (h : step s = .next t) (hl : t.linkOpen = true) :
    (s.linkOpen = true ∧ t.lastCommit = s.lastCommit) ∨ s.clkSeen ≤ t.lastCommit := by
  rcases step_next h with ⟨-, he⟩ | ⟨-, -, rfl⟩ | ⟨-, rest, -, rfl⟩ | ⟨-, c, rest, -, -, rfl⟩ |
    ⟨-, c, rest, i, -, -, he⟩
  · exact exec_lastCommit he hl
  · exact .inl ⟨hl, rfl⟩
  · cases hl
  · exact .inl ⟨hl, rfl⟩
  · exact exec_lastCommit (s := { s with port := rest }) he hl

/-! ### Runs -/

theorem runSteps_one (s : State) : runSteps 1 s = step s := by
  simp only [runSteps]
  split <;> simp_all

/-- The last step of a run. -/
theorem runSteps_succ {k : Nat} {s u : State} (h : runSteps k s = .next u) : runSteps (k + 1) s = step u := by
  rw [runSteps_add h, runSteps_one]

/-- What every step keeps, every run keeps. -/
theorem runSteps_keeps {P : State → Prop} (hstep : ∀ s t, P s → step s = .next t → P t) {k : Nat} {s t : State}
    (h : runSteps k s = .next t) (hs : P s) : P t := by
  induction k generalizing s with
  | zero => cases h; exact hs
  | succ k ih =>
    simp only [runSteps] at h
    split at h
    · next u hu => exact ih h (hstep s u hs hu)
    · cases h
    · cases h

/-! ### The distance of two commits (R174) -/

/-- What a commit stored at `last` leaves true for ever: `last` is no later than the latest sample, nor than the last
commit of any session open since. A closed link says nothing, since a reset puts its last commit back to 0. -/
structure CommitFloor (last : Word64) (s : State) : Prop where
  inv   : MachineInv s
  seen  : last ≤ s.clkSeen
  floor : s.linkOpen = true → last ≤ s.lastCommit

theorem MachineInv.commitFloor {s : State} (h : MachineInv s) : CommitFloor s.lastCommit s :=
  ⟨h, h.clock, fun _ => BitVec.le_refl _⟩

theorem CommitFloor.step {last : Word64} {s t : State} (h : CommitFloor last s) (hs : step s = .next t) :
    CommitFloor last t where
  inv := h.inv.step hs
  seen := BitVec.le_trans h.seen (step_clkSeen_le hs)
  floor hl := by
    rcases step_lastCommit hs hl with ⟨hopen, heq⟩ | hle
    · rw [heq]
      exact h.floor hopen
    · exact BitVec.le_trans h.seen hle

/-- R170: the modular difference of the gate is the difference of the two numbers under the monotone clock. -/
theorem add_le_of_elapsed {last now : Word64} (hle : last ≤ now) (h : 310 ≤ (now - last).toNat) :
    last.toNat + 310 ≤ now.toNat := by
  rw [BitVec.toNat_sub_of_le hle] at h
  omega

/-! ### A waiting commit (R172, R175) -/

/-- A step of a waiting commit: the first sample finds the gate closed, or opens it and the commit is complete. -/
theorem step_wait_next {s t : State} (hp : s.phase = .wait) (h : step s = .next t) :
    (t.phase = .wait ∧ ∃ t1, s.sampleNow = some (t1, t) ∧ (t1 - s.lastCommit).toNat < 310) ∨
    (t.phase = .idle ∧ t.rsps = s.rsps ++ [0#64] ∧
      ∃ t1 s1, s.sampleNow = some (t1, s1) ∧ 310 ≤ (t1 - s.lastCommit).toNat) := by
  rw [step_of_wait hp, exec_txCommit_of_wait hp] at h
  rcases State.commitPoll_next h with ⟨t1, h1, hc⟩ | ⟨t1, s1, t2, s2, h1, ho, h2, rfl⟩
  · exact .inl ⟨by rw [State.sampleNow_phase h1, hp], t1, h1, hc⟩
  · refine .inr ⟨rfl, ?_, t1, s1, h1, ho⟩
    rw [State.endCommit_eq, State.sampleNow_rsps h2, State.sampleNow_rsps h1]

theorem step_wait_of_closed {s s1 : State} {t1 : Word64} (hp : s.phase = .wait) (h1 : s.sampleNow = some (t1, s1))
    (hc : (t1 - s.lastCommit).toNat < 310) : step s = .next s1 := by
  rw [step_of_wait hp, exec_txCommit_of_wait hp, State.commitPoll_of_closed h1 hc]

theorem step_wait_of_open {s s1 s2 : State} {t1 t2 : Word64} (hp : s.phase = .wait)
    (h1 : s.sampleNow = some (t1, s1)) (ho : 310 ≤ (t1 - s.lastCommit).toNat) (h2 : s1.sampleNow = some (t2, s2)) :
    step s = .next ({ s2.sendRecord bodyCommit with lastCommit := t2, phase := .idle }.respond .ok 0) := by
  rw [step_of_wait hp, exec_txCommit_of_wait hp, State.commitPoll_of_open h1 ho h2]

theorem WaitsFor.of_succ {k : Nat} {s : State} (h : WaitsFor (k + 1) s) : WaitsFor k s :=
  fun j hj => h j (Nat.le_succ_of_le hj)

theorem WaitsFor.phase_eq {k : Nat} {s u : State} (hw : WaitsFor k s) (hu : runSteps k s = .next u) :
    u.phase = .wait := by
  obtain ⟨v, hv, hvp⟩ := hw k (Nat.le_refl k)
  rw [hu] at hv
  cases hv
  exact hvp

/-- What a sample that finds the gate closed keeps, a wait keeps. -/
theorem WaitsFor.keeps {P : State → Prop}
    (hpoll : ∀ s s1 t1, s.sampleNow = some (t1, s1) → P s → P s1) {k : Nat} {s u : State} (hw : WaitsFor k s)
    (hu : runSteps k s = .next u) (hs : P s) : P u := by
  induction k generalizing u with
  | zero => cases hu; exact hs
  | succ k ih =>
    obtain ⟨v, hv, hvp⟩ := hw k (Nat.le_succ k)
    have hup := hw.phase_eq hu
    rw [runSteps_succ hv] at hu
    rcases step_wait_next hvp hu with ⟨-, t1, h1, -⟩ | ⟨hidle, -⟩
    · exact hpoll v u t1 h1 (ih hw.of_succ hv)
    · rw [hup] at hidle
      cases hidle

/-- A wait changes nothing but the clock's inputs. -/
def SameButClock (s u : State) : Prop :=
  u = { s with samples := u.samples, clkSeen := u.clkSeen, draws := u.draws }

theorem WaitsFor.sameButClock {k : Nat} {s u : State} (hw : WaitsFor k s) (hu : runSteps k s = .next u) :
    SameButClock s u := by
  refine hw.keeps (P := SameButClock s) (fun v v1 t1 h1 hv => ?_) hu rfl
  have hv1 := (State.sampleNow_some h1).2
  unfold SameButClock at hv ⊢
  rw [hv1, hv]

theorem WaitsFor.monotone {k : Nat} {s u : State} (hw : WaitsFor k s) (hu : runSteps k s = .next u)
    (hm : MonotoneFrom s.clkSeen s.samples) : MonotoneFrom u.clkSeen u.samples := by
  refine hw.keeps (P := fun v => MonotoneFrom v.clkSeen v.samples) (fun v v1 t1 h1 hv => ?_) hu hm
  obtain ⟨t, v', hv', hm'⟩ := State.sampleNow_of_monotone hv
  rw [h1] at hv'
  cases hv'
  exact hm'

theorem WaitsFor.lastCommit_eq {k : Nat} {s u : State} (hw : WaitsFor k s) (hu : runSteps k s = .next u) :
    u.lastCommit = s.lastCommit := by
  rw [hw.sameButClock hu]

theorem WaitsFor.rsps_eq {k : Nat} {s u : State} (hw : WaitsFor k s) (hu : runSteps k s = .next u) :
    u.rsps = s.rsps := by
  rw [hw.sameButClock hu]

/-- R175: the commit waits `k` steps and the sample drawn next opens the gate. -/
def GateOpensAfter (k : Nat) (s : State) : Prop :=
  ∃ u t1 u1, WaitsFor k s ∧ runSteps k s = .next u ∧ u.sampleNow = some (t1, u1) ∧
    310 ≤ (t1 - s.lastCommit).toNat

/-- R175: the commit waits `k` steps and the next step ends it with the response `OK`. -/
def CompletesAfter (k : Nat) (s : State) : Prop :=
  ∃ t, WaitsFor k s ∧ runSteps (k + 1) s = .next t ∧ t.phase = .idle ∧ t.rsps = s.rsps ++ [0#64]

/-- R172: the step that ends the wait is the one whose first sample opens the gate; the second sample it draws is there
because the clock is monotone. -/
theorem completesAfter_iff {k : Nat} {s : State} (hm : MonotoneFrom s.clkSeen s.samples) :
    CompletesAfter k s ↔ GateOpensAfter k s := by
  constructor
  · rintro ⟨t, hw, ht, hidle, -⟩
    obtain ⟨u, hu, hup⟩ := hw k (Nat.le_refl k)
    rw [runSteps_succ hu] at ht
    rcases step_wait_next hup ht with ⟨hwait, -⟩ | ⟨-, -, t1, u1, h1, ho⟩
    · rw [hidle] at hwait
      cases hwait
    · exact ⟨u, t1, u1, hw, hu, h1, hw.lastCommit_eq hu ▸ ho⟩
  · rintro ⟨u, t1, u1, hw, hu, h1, ho⟩
    obtain ⟨t, v, hv, hm1⟩ := State.sampleNow_of_monotone (hw.monotone hu hm)
    rw [h1] at hv
    cases hv
    obtain ⟨t2, u2, h2, -⟩ := State.sampleNow_of_monotone hm1
    rw [← hw.lastCommit_eq hu] at ho
    refine ⟨_, hw, (runSteps_succ hu).trans (step_wait_of_open (hw.phase_eq hu) h1 ho h2), rfl, ?_⟩
    rw [State.endCommit_eq, State.sampleNow_rsps h2, State.sampleNow_rsps h1, hw.rsps_eq hu]

/-- R172: a commit waits one more step exactly if the next sample leaves the gate closed. -/
theorem WaitsFor.succ_iff {k : Nat} {s : State} (hw : WaitsFor k s) (hm : MonotoneFrom s.clkSeen s.samples) :
    WaitsFor (k + 1) s ↔ ¬ GateOpensAfter k s := by
  constructor
  · intro hw' ho
    obtain ⟨t, -, ht, hidle, -⟩ := (completesAfter_iff hm).mpr ho
    rw [hw'.phase_eq ht] at hidle
    cases hidle
  · intro hclosed j hj
    rcases Nat.le_succ_iff.mp hj with hj | rfl
    · exact hw j hj
    · obtain ⟨u, hu, hup⟩ := hw k (Nat.le_refl k)
      obtain ⟨t1, u1, h1, -⟩ := State.sampleNow_of_monotone (hw.monotone hu hm)
      have hlt : (t1 - u.lastCommit).toNat < 310 :=
        Nat.not_le.mp fun ho => hclosed ⟨u, t1, u1, hw, hu, h1, hw.lastCommit_eq hu ▸ ho⟩
      exact ⟨u1, (runSteps_succ hu).trans (step_wait_of_closed hup h1 hlt), by rw [State.sampleNow_phase h1, hup]⟩

/-- R175: under the monotone clock a commit hangs exactly if no sample it draws opens the gate. -/
theorem hangs_iff {s : State} (hp : s.phase = .wait) (hm : MonotoneFrom s.clkSeen s.samples) :
    Hangs s ↔ ∀ k, ¬ GateOpensAfter k s := by
  constructor
  · intro h k
    exact ((h k).succ_iff hm).mp (h (k + 1))
  · intro h k
    induction k with
    | zero =>
      intro j hj
      obtain rfl := Nat.le_zero.mp hj
      exact ⟨s, rfl, hp⟩
    | succ k ih => exact (ih.succ_iff hm).mpr (h k)

/-- R175: a waiting commit polls past every listed sample that finds the gate closed, and completes at the first that
opens it, the sample after that being stored. -/
theorem runSteps_closed_then_open {closed : List Word64} {s : State} {t1 t2 : Word64} {more : List Word64}
    (hp : s.phase = .wait) (hs : s.samples = closed ++ t1 :: t2 :: more)
    (hm : MonotoneFrom s.clkSeen (closed ++ [t1, t2])) (hc : ∀ c ∈ closed, (c - s.lastCommit).toNat < 310)
    (ho : 310 ≤ (t1 - s.lastCommit).toNat) :
    runSteps (closed.length + 1) s = .next { s with
      xlog := s.xlog ++ encCommit.map .xByte, crc := 0x207EC764#32, lastCommit := t2, phase := .idle,
      samples := more, clkSeen := t2, rsps := s.rsps ++ [0#64] } := by
  induction closed generalizing s with
  | nil =>
    obtain ⟨h1, h2, -⟩ := hm
    rw [List.length_nil, runSteps_one, step_wait_of_open hp (State.sampleNow_cons hs h1) ho
      (State.sampleNow_cons rfl h2), State.endCommit_eq]
  | cons c closed ih =>
    obtain ⟨h1, hm'⟩ := hm
    have hstep := step_wait_of_closed hp (State.sampleNow_cons hs h1) (hc c List.mem_cons_self)
    rw [List.length_cons, Nat.add_comm _ 1, runSteps_add ((runSteps_one s).trans hstep)]
    exact ih hp rfl hm' (fun d hd => hc d (List.mem_cons_of_mem c hd)) ho

/-- R33: any number of samples of a monotone clock, listed in order, do not decrease. -/
theorem ClockMonotone.monotoneFrom {clock : Nat → Word64} (h : ClockMonotone clock) {seen : Word64} {start : Nat}
    (hseen : seen ≤ clock start) (len : Nat) : MonotoneFrom seen ((List.range' start len).map clock) := by
  induction len generalizing seen start with
  | zero => trivial
  | succ len ih => exact ⟨hseen, ih (h start)⟩

/-- R175: a fair clock has a first draw that opens the gate, where 310 after the last commit does not wrap. -/
theorem ClockFair.exists_first_open {clock : Nat → Word64} (h : ClockFair clock) {last : Word64}
    (hl : last.toNat + 310 < 2 ^ 64) :
    ∃ n, (∀ k, k < n → (clock k - last).toNat < 310) ∧ 310 ≤ (clock n - last).toNat := by
  have hopen : ∃ n, 310 ≤ (clock n - last).toNat := by
    obtain ⟨n, -, hn⟩ := h (last.toNat + 309) 0 (by omega)
    exact ⟨n, elapsed_of_le hn⟩
  exact ⟨Nat.find hopen, fun k hk => Nat.not_le.mp (Nat.find_min hopen hk), Nat.find_spec hopen⟩

/-- The listed samples of a clock, cut at draw `n`. -/
theorem map_range_split (clock : Nat → Word64) {n m : Nat} (h : n + 2 ≤ m) :
    (List.range m).map clock =
      (List.range n).map clock ++ clock n :: clock (n + 1) :: ((List.range m).drop (n + 2)).map clock := by
  calc (List.range m).map clock
    _ = ((List.range m).take (n + 2)).map clock ++ ((List.range m).drop (n + 2)).map clock := by
        rw [← List.map_append, List.take_append_drop]
    _ = (List.range (n + 2)).map clock ++ ((List.range m).drop (n + 2)).map clock := by
        rw [List.take_range, Nat.min_eq_left h]
    _ = _ := by simp [List.range_succ]

/-! ### The statements -/

/-- Settles O47: the floor the first commit leaves is kept by every step, and a commit that waits has an open link. -/
theorem consecutiveCommitsAre310Apart : Obligations.ConsecutiveCommitsAre310Apart := by
  unfold Obligations.ConsecutiveCommitsAre310Apart
  intro k s u v v1 w t1 hinv _ hsu _ hrun hvp h1 hvw hwp
  have hfloor : CommitFloor u.lastCommit v :=
    runSteps_keeps (P := CommitFloor u.lastCommit) (fun _ _ h hs => h.step hs) hrun (hinv.step hsu).commitFloor
  have hlast : u.lastCommit ≤ v.lastCommit := hfloor.floor (hfloor.inv.waiting hvp)
  have hle : v.lastCommit ≤ t1 := BitVec.le_trans hfloor.inv.clock (State.sampleNow_some h1).1
  rcases step_wait_next hvp hvw with ⟨hwait, -⟩ | ⟨-, -, t, s1, ht, ho⟩
  · rw [hwp] at hwait
    cases hwait
  · rw [h1] at ht
    cases ht
    exact Nat.le_trans (Nat.add_le_add_right (BitVec.le_def.mp hlast) 310) (add_le_of_elapsed hle ho)

/-- Settles O7: a waiting core's step is a poll, and no command touches the host's list. -/
theorem waitingCoreAcceptsNothing : Obligations.WaitingCoreAcceptsNothing := by
  unfold Obligations.WaitingCoreAcceptsNothing
  intro s hp
  refine ⟨step_of_wait hp, fun t ht => ?_⟩
  rw [step_of_wait hp] at ht
  exact (exec_keepsUnwritten ht).port

/-- Settles O27, a case for each form of the list of samples. -/
theorem clockDrawIsMonotone : Obligations.ClockDrawIsMonotone := by
  unfold Obligations.ClockDrawIsMonotone
  exact fun s => ⟨fun _ _ => State.sampleNow_cons, fun _ _ => State.sampleNow_none_of_lt, State.sampleNow_nil⟩

/-- Settles O28: each of the three draws finds nothing to draw. -/
theorem decreasingSampleIsRefused : Obligations.DecreasingSampleIsRefused := by
  unfold Obligations.DecreasingSampleIsRefused
  refine ⟨fun s as now rest hl ha hs hlt => ?_, fun s sr now rest hp hs hlt => ?_,
    fun s sr t1 t2 rest hp hs h1 ho hlt => ?_⟩
  · exact exec_sOpen_of_ok_none hl (State.xportOpen_cons ha) (State.sampleNow_none_of_lt hs hlt)
  · rw [exec_txCommit_of_wait hp, State.commitPoll, State.sampleNow_none_of_lt hs hlt]
  · rw [exec_txCommit_of_wait hp]
    exact State.commitPoll_of_open_none (State.sampleNow_cons hs h1) ho (State.sampleNow_none_of_lt rfl hlt)

/-- Settles O32: the accept step by its checks, the poll by what its samples are. -/
theorem txCommitChecksWaitsAndCommits : Obligations.TxCommitChecksWaitsAndCommits := by
  unfold Obligations.TxCommitChecksWaitsAndCommits
  refine fun s sr => ⟨?_, ?_, ?_, ?_⟩
  · rintro hp rfl
    rw [exec_txCommit_of_idle hp]
    rfl
  · rintro hp rfl hl
    simp [exec_txCommit_of_idle hp, State.commitAccept, hl, State.raise, State.respond, rspWord, Status.code]
  · rintro hp rfl hl
    simp [exec_txCommit_of_idle hp, State.commitAccept, hl]
  · intro hp t1 s1 h1
    obtain ⟨-, hs1⟩ := State.sampleNow_some h1
    constructor
    · intro hc
      rw [exec_txCommit_of_wait hp, State.commitPoll_of_closed h1 hc, ← hs1]
    · intro ho t2 s2 h2
      obtain ⟨-, hs2⟩ := State.sampleNow_some h2
      rw [exec_txCommit_of_wait hp, State.commitPoll_of_open h1 ho h2, State.endCommit_eq, hs2, hs1, encCommit,
        record_bodyCommit]
      rfl

/-- Settles O37: the frame of every command, clause by clause. -/
theorem everyCommandKeepsWhatItDoesNotWrite : Obligations.EveryCommandKeepsWhatItDoesNotWrite := by
  unfold Obligations.EveryCommandKeepsWhatItDoesNotWrite
  intro i s t he
  have h := exec_keepsUnwritten he
  exact ⟨h.crc, h.ctx, h.size, h.link, h.clock, h.phase, h.trace, h.answers, h.port⟩

/-- Settles O38: of the cases of a step, only a reset takes events from the trace. -/
theorem outputTraceOnlyGrows : Obligations.OutputTraceOnlyGrows := by
  unfold Obligations.OutputTraceOnlyGrows
  intro s t hs
  have hgrows : s.xlog <+: t.xlog → ∃ events, t.xlog = s.xlog ++ events :=
    fun ⟨events, he⟩ => ⟨events, he.symm⟩
  rcases step_next hs with ⟨-, he⟩ | ⟨-, -, rfl⟩ | ⟨hp, rest, hq, -⟩ | ⟨-, c, rest, -, -, rfl⟩ |
    ⟨-, c, rest, i, -, -, he⟩
  · exact .inl (hgrows (exec_xlog_extends he))
  · exact .inl (hgrows List.prefix_rfl)
  · exact .inr ⟨hp, rest, hq⟩
  · exact .inl (hgrows List.prefix_rfl)
  · exact .inl (hgrows (exec_xlog_extends (s := { s with port := rest }) he))

/-- Settles O44, by the cases of a step. -/
theorem clockNeverGoesBack : Obligations.ClockNeverGoesBack := by
  unfold Obligations.ClockNeverGoesBack
  exact fun _ _ => step_clkSeen_le

/-- Settles O48: completing and opening the gate agree at each number of steps waited. -/
theorem commitCompletesIffSomeSampleOpensTheGate : Obligations.CommitCompletesIffSomeSampleOpensTheGate := by
  unfold Obligations.CommitCompletesIffSomeSampleOpensTheGate
  intro s hp hm
  exact ⟨exists_congr fun _ => completesAfter_iff hm, (hangs_iff hp hm).trans not_exists.symm⟩

/-- Settles O49: the first draw that opens the gate exists by fairness, and the commit completes there. -/
theorem fairClockCompletesTheCommit : Obligations.FairClockCompletesTheCommit := by
  unfold Obligations.FairClockCompletesTheCommit
  intro s clock hp hseen hmono hfair hl
  obtain ⟨n, hclosed, hopen⟩ := hfair.exists_first_open hl
  refine ⟨n, hclosed, hopen, fun m hm => ?_⟩
  have hlisted : MonotoneFrom s.clkSeen ((List.range n).map clock ++ [clock n, clock (n + 1)]) := by
    simpa [← List.range_eq_range', List.range_succ] using hmono.monotoneFrom hseen (n + 2)
  have hrun := runSteps_closed_then_open (s := { s with samples := (List.range m).map clock }) hp
    (map_range_split clock hm) hlisted (by simpa using hclosed) hopen
  rwa [List.length_map, List.length_range] at hrun

/-- Settles O6: `step_of_command`, since a step adds nothing to `exec`. -/
theorem stepRunsTheDecodedCommand : Obligations.StepRunsTheDecodedCommand := by
  unfold Obligations.StepRunsTheDecodedCommand
  exact fun _ _ _ _ => step_of_command

/-- Settles O9: every context is the Disabled one, and the machine's own reset state has four. -/
theorem resetGivesEveryRegisterItsValue : Obligations.ResetGivesEveryRegisterItsValue := by
  unfold Obligations.ResetGivesEveryRegisterItsValue
  refine ⟨fun n => ⟨rfl, List.length_replicate, fun i c hc => ?_, rfl, rfl, rfl, rfl⟩,
    Config.nctxDefault, by decide, by decide, rfl⟩
  obtain rfl : c = ChanCtx.reset := List.eq_of_mem_replicate (List.mem_of_getElem? hc)
  exact ⟨rfl, rfl, rfl, rfl, rfl, rfl, rfl, rfl⟩

/-- Settles O26: the listed answer is given, and then the listed sample is drawn. -/
theorem sOpenRunsOnListedInputs : Obligations.SOpenRunsOnListedInputs := by
  unfold Obligations.SOpenRunsOnListedInputs
  intro s as now rest hl ha hs hle
  exact exec_sOpen_of_ok hl (State.xportOpen_cons ha) (State.sampleNow_cons hs hle)

end Sys2Proof.Machine
end

section
/-! PROOF. `TX.WRITE` and its pixel operand buffer (family 20_memory.md): what the command does at each outcome of its
checks, how much of the buffer it looks at, and the three statements. -/

namespace Sys2Proof.Machine

/-! ### The buffer (R50 to R53) -/

/-- R53: a buffer that is long enough gives the same payload with more bytes after it. -/
theorem readPix_append {pix : List Byte} {k : Nat} (h : k ≤ pix.length) (extra : List Byte) :
    readPix (pix ++ extra) k = readPix pix k := by
  simp [readPix, h, Nat.le_add_right_of_le h, List.take_append_of_le_length h]

/-- R51: with no component to send or none to a pixel, no byte is asked for. -/
theorem need_eq_zero {n : BitVec 16} {width : BitVec 3} (h : n = 0#16 ∨ width = 0#3) : need n width = 0 := by
  rcases h with rfl | rfl <;> simp [need]

/-! ### The length of a channel-write record (R88) -/

@[simp] theorem length_record (body : List Byte) : (record body).length = body.length + 4 := by
  simp [record, trailer, le32]

@[simp] theorem length_bodyWrite (c : ChanCtx) (n : BitVec 16) (payload : List Byte) :
    (bodyWrite c n payload).length = payload.length + 10 := by
  simp [bodyWrite, hdr, chinfo, magic, le16]

/-! ### The record, once the checks have passed (R165) -/

/-- R52: the fault of a buffer that is too short. -/
theorem State.writeChannel_of_lt {c : ChanCtx} {n : BitVec 16} {pix : List Byte} (s : State) (k : Nat)
    (h : pix.length < need n c.width) : s.writeChannel k c n pix = .fault .pixUnderrun := by
  rw [State.writeChannel, readPix_none.mpr h]

/-- R165: a buffer that is long enough. -/
theorem State.writeChannel_of_le {c : ChanCtx} {n : BitVec 16} {pix : List Byte} (s : State) (k : Nat)
    (h : need n c.width ≤ pix.length) : s.writeChannel k c n pix =
      .next (((s.sendRecord (bodyWrite c n (pix.take (need n c.width)))).setContext k { c with pcount := n }).respond
        .ok 0) := by
  simp [State.writeChannel, readPix, h]

/-! ### The checks (R163) -/

theorem exec_txWrite_of_absent {s : State} {sr : SesRef} {ch : ChanRef} (h : sr = .null ∨ s.channel ch = none)
    (n : BitVec 16) (pix : List Byte) : exec (.txWrite sr ch n pix) s = s.raise .invalidArgument 0 := by
  rcases h with rfl | hc
  · rfl
  · cases sr <;> simp [exec, execTxWrite, hc]

theorem exec_txWrite_of_closed {s : State} {ch : ChanRef} {k : Nat} {c : ChanCtx} (hc : s.channel ch = some (k, c))
    (hl : s.linkOpen = false) (n : BitVec 16) (pix : List Byte) :
    exec (.txWrite .ses ch n pix) s = s.raise .notConnected 0 := by
  simp [exec, execTxWrite, hc, hl]

theorem exec_txWrite_of_open {s : State} {ch : ChanRef} {k : Nat} {c : ChanCtx} (hc : s.channel ch = some (k, c))
    (hl : s.linkOpen = true) (n : BitVec 16) (pix : List Byte) :
    exec (.txWrite .ses ch n pix) s = s.writeChannel k c n pix := by
  simp [exec, execTxWrite, hc, hl]

/-- The checks do not look at the buffer: they report whatever it holds, or they pass whatever it holds. -/
theorem exec_txWrite_cases (s : State) (sr : SesRef) (ch : ChanRef) (n : BitVec 16) :
    (∃ st, ∀ pix, exec (.txWrite sr ch n pix) s = s.raise st 0) ∨
    (∃ k c, ∀ pix, exec (.txWrite sr ch n pix) s = s.writeChannel k c n pix) := by
  cases sr with
  | null => exact .inl ⟨_, exec_txWrite_of_absent (.inl rfl) n⟩
  | ses =>
    cases hc : s.channel ch with
    | none => exact .inl ⟨_, exec_txWrite_of_absent (.inr hc) n⟩
    | some p =>
      cases hl : s.linkOpen with
      | false => exact .inl ⟨_, exec_txWrite_of_closed hc hl n⟩
      | true => exact .inr ⟨p.1, p.2, exec_txWrite_of_open hc hl n⟩

/-! ### The statements -/

/-- Settles O29: one lemma about the checks or the record for each clause. -/
theorem txWriteSendsOrReports : Obligations.TxWriteSendsOrReports := by
  unfold Obligations.TxWriteSendsOrReports
  refine fun s sr ch n pix => ⟨fun h => ?_, ?_⟩
  · exact exec_txWrite_of_absent (h.imp_right State.channel_of_absent) n pix
  · rintro k c rfl hch
    have hc := State.channel_of_is hch
    refine ⟨fun hl => ?_, fun hl hlt => ?_, fun hl hle => ⟨_, _, rfl, rfl, ?_⟩⟩
    · exact exec_txWrite_of_closed hc hl n pix
    · rw [exec_txWrite_of_open hc hl, State.writeChannel_of_lt s k hlt]
    · rw [exec_txWrite_of_open hc hl, State.writeChannel_of_le s k hle]
      rfl

/-- Settles O30: the checks do not look at the buffer, and past them the payload is the same. -/
theorem txWriteIgnoresExcessBytes : Obligations.TxWriteIgnoresExcessBytes := by
  unfold Obligations.TxWriteIgnoresExcessBytes
  intro s sr ch n pix extra hok
  rcases exec_txWrite_cases s sr ch n with ⟨st, he⟩ | ⟨k, c, he⟩
  · rw [he, he]
  · rw [he] at hok
    have hle : need n c.width ≤ pix.length :=
      Nat.le_of_not_lt fun hlt => hok (State.writeChannel_of_lt s k hlt)
    rw [he, he, State.writeChannel, readPix_append hle, State.writeChannel]

/-- Settles O31: no byte is needed, so the payload is empty whatever the buffer holds. -/
theorem txWriteWithoutPixelsReadsNothing : Obligations.TxWriteWithoutPixelsReadsNothing := by
  unfold Obligations.TxWriteWithoutPixelsReadsNothing
  intro s ch n pix k c hch hl h0
  have hneed : need n c.width = 0 := need_eq_zero h0
  have hsent (buf : List Byte) : exec (.txWrite .ses ch n buf) s =
      .next (((s.sendRecord (bodyWrite c n [])).setContext k { c with pcount := n }).respond .ok 0) := by
    rw [exec_txWrite_of_open (State.channel_of_is hch) hl, State.writeChannel_of_le s k (by omega), hneed,
      List.take_zero]
  exact ⟨_, record (bodyWrite c n []), hsent pix, hsent [], by simp, by simp⟩

end Sys2Proof.Machine
end

section
/-! PROOF. The encoding (family 30_encoding.md): the fields of a command word and the mask of those its command decodes,
the two round trips, what the port does with a word, the responses, the checksum through the port, the layout of a record,
and the statements. -/

namespace Sys2Proof

/-! ### Words, fields and masks -/

/-- A field of a word, put back in its place, is the word under the field's mask. -/
theorem setWidth_extractLsb'_shiftLeft {k : Nat} (w : BitVec k) (start len : Nat) :
    (w.extractLsb' start len).setWidth k <<< start = w &&& (BitVec.allOnes len).setWidth k <<< start := by
  ext i hi
  rcases Nat.lt_or_ge i start with hs | hs
  · simp [hs]
  · simp [Nat.add_sub_cancel' hs, Nat.not_lt.mpr hs, BitVec.getLsbD_eq_getElem hi, Bool.and_comm]

theorem ofBool_getLsbD {k : Nat} (w : BitVec k) (i : Nat) : BitVec.ofBool (w.getLsbD i) = w.extractLsb' i 1 := by
  ext j hj
  obtain rfl : j = 0 := by omega
  simp

/-- Two words are the same under a mask if they differ nowhere under it. -/
theorem and_eq_and_of_xor_and {k : Nat} {w v m : BitVec k} (h : (w ^^^ v) &&& m = 0#k) : w &&& m = v &&& m := by
  ext i hi
  have hbit : ((w ^^^ v) &&& m)[i] = false := by rw [h, BitVec.getElem_zero]
  clear h
  cases hm : m[i] <;> simp_all

/-- A word is zero outside a mask exactly if the mask leaves it as it is. -/
theorem and_not_eq_zero_iff {k : Nat} {w m : BitVec k} : w &&& ~~~m = 0#k ↔ w &&& m = w := by
  constructor
  · intro h
    ext i hi
    have hbit : (w &&& ~~~m)[i] = false := by rw [h, BitVec.getElem_zero]
    clear h
    cases hm : m[i] <;> simp_all
  · intro h
    rw [← h, BitVec.and_assoc, BitVec.and_not_self]
    exact BitVec.and_zero

/-! A field that is decoded whole passes its mask unchanged. -/

@[simp] theorem nibble_and_ones (x : BitVec 4) : x &&& 15#4 = x := BitVec.and_allOnes

@[simp] theorem byte_and_ones (x : Byte) : x &&& 255#8 = x := BitVec.and_allOnes

@[simp] theorem count_and_ones (x : BitVec 16) : x &&& 65535#16 = x := BitVec.and_allOnes

/-- The fields of R71, put together again, are the word without `rsv1` and `rsv0`. -/
theorem packWord_fields (w : Word64) :
    packWord (fieldOp w) (BitVec.ofBool (fieldSv w)) (BitVec.ofBool (fieldCv w)) (fieldCtx w) (fieldA0 w) (fieldA1 w)
      (fieldRo w) (fieldGo w) (fieldBo w) (fieldWo w) = w &&& 0xFFFFFFFFFFFF0F3F#64 := by
  have hop : (fieldOp w).setWidth 64 = w &&& (BitVec.allOnes 4).setWidth 64 := by
    simpa [fieldOp] using setWidth_extractLsb'_shiftLeft w 0 4
  simp only [packWord, hop, fieldSv, fieldCv, ofBool_getLsbD, fieldCtx, fieldA0, fieldA1, fieldRo, fieldGo, fieldBo,
    fieldWo, setWidth_extractLsb'_shiftLeft, ← BitVec.and_or_distrib_left]
  rfl

/-- R78: no command decodes `rsv1` or `rsv0`. -/
theorem usedMask_and_listed (op : BitVec 4) : usedMask op &&& 0xFFFFFFFFFFFF0F3F#64 = usedMask op := by
  revert op
  decide

/-- R72: every command decodes its opcode. -/
theorem fieldOp_and_usedMask (w : Word64) (op : BitVec 4) : fieldOp (w &&& usedMask op) = fieldOp w := by
  have hmask : fieldOp (usedMask op) = 15#4 := by
    revert op
    decide
  calc fieldOp (w &&& usedMask op)
    _ = fieldOp w &&& fieldOp (usedMask op) := BitVec.extractLsb'_and
    _ = fieldOp w := by rw [hmask, nibble_and_ones]

/-! ### References (R79) -/

@[simp] theorem sesRefOf_packWord (op : BitVec 4) (sr : SesRef) (cv : BitVec 1) (ctx : BitVec 4)
    (a0 a1 ro go bo wo : Byte) : sesRefOf (packWord op sr.bit cv ctx a0 a1 ro go bo wo) = sr := by
  cases sr <;> simp [sesRefOf, SesRef.bit]

@[simp] theorem chanRefOf_packWord (op : BitVec 4) (sv : BitVec 1) (ch : ChanRef) (a0 a1 ro go bo wo : Byte) :
    chanRefOf (packWord op sv ch.validBit ch.index a0 a1 ro go bo wo) = ch := by
  cases ch <;> simp [chanRefOf, ChanRef.validBit, ChanRef.index]

@[simp] theorem sesRefOf_bit (w : Word64) : (sesRefOf w).bit = BitVec.ofBool (fieldSv w) := by
  cases h : fieldSv w <;> simp [sesRefOf, SesRef.bit, h]

@[simp] theorem chanRefOf_validBit (w : Word64) : (chanRefOf w).validBit = BitVec.ofBool (fieldCv w) := by
  cases h : fieldCv w <;> simp [chanRefOf, ChanRef.validBit, h]

/-- R80: the index of a reference is the field `ctx`, where an absent reference is written with 0 in it. -/
theorem chanRefOf_index {w : Word64} (h : fieldCv w = true ∨ fieldCtx w = 0#4) :
    (chanRefOf w).index = fieldCtx w := by
  cases hcv : fieldCv w <;> simp_all [chanRefOf, ChanRef.index]

/-- R80: an absent reference has index 0. -/
theorem ChanRef.present_or_index_zero (ch : ChanRef) : ch.validBit.getLsbD 0 = true ∨ ch.index = 0#4 := by
  cases ch with
  | null => exact .inr rfl
  | ctx i => simp [ChanRef.validBit]

/-! The two halves of the count (R79). -/

@[simp] theorem fieldCount_low (w : Word64) : (fieldCount w).extractLsb' 0 8 = fieldA0 w := by
  ext i hi
  have h16 : i < 16 := by omega
  simp [fieldCount, fieldA0, h16]

@[simp] theorem fieldCount_high (w : Word64) : (fieldCount w).extractLsb' 8 8 = fieldA1 w := by
  ext i hi
  have h16 : 8 + i < 16 := by omega
  have hadd : 16 + (8 + i) = 24 + i := by omega
  simp [fieldCount, fieldA1, h16, hadd]

/-! ### What a word decodes to (R74, R77) -/

/-- R74: the command of each opcode, with the fields it decodes. -/
theorem decode_ok {w : Word64} {pix : List Byte} {i : Instr} (h : decode w pix = .ok i) :
    (fieldOp w = 1#4 ∧ i = .crcInit) ∨
    (fieldOp w = 2#4 ∧ i = .crcUpd (fieldA0 w)) ∨
    (fieldOp w = 3#4 ∧ i = .crcFin) ∨
    (fieldOp w = 4#4 ∧
      i = .chCfg (chanRefOf w) (fieldA0 w) (fieldA1 w) (fieldRo w) (fieldGo w) (fieldBo w) (fieldWo w)) ∨
    (fieldOp w = 5#4 ∧ i = .chKind (chanRefOf w) (fieldA1 w)) ∨
    (fieldOp w = 6#4 ∧ i = .sOpen) ∨
    (fieldOp w = 7#4 ∧ i = .sClose (sesRefOf w)) ∨
    (fieldOp w = 8#4 ∧ i = .txWrite (sesRefOf w) (chanRefOf w) (fieldCount w) pix) ∨
    (fieldOp w = 9#4 ∧ i = .txCommit (sesRefOf w)) := by
  unfold decode at h
  split at h <;> cases h <;> simp [BitVec.toNat_eq, *]

theorem decode_ok_of_assigned {w : Word64} (h1 : 1 ≤ (fieldOp w).toNat) (h9 : (fieldOp w).toNat ≤ 9)
    (pix : List Byte) : ∃ i, decode w pix = .ok i := by
  unfold decode
  interval_cases (fieldOp w).toNat <;> exact ⟨_, rfl⟩

theorem decode_of_reserved {w : Word64} (h : fieldOp w = 0#4 ∨ 10 ≤ (fieldOp w).toNat) (pix : List Byte) :
    decode w pix = .error (.reservedOpcode (fieldOp w)) := by
  have hop : (fieldOp w).toNat = 0 ∨ 10 ≤ (fieldOp w).toNat := h.imp_left (congrArg BitVec.toNat)
  unfold decode
  split
  case h_10 => rfl
  all_goals omega

/-- R78: what a word decodes to is decided by the fields its format lists. -/
theorem decode_and_usedMask (w : Word64) (pix : List Byte) :
    decode (w &&& usedMask (fieldOp w)) pix = decode w pix := by
  unfold decode
  rw [fieldOp_and_usedMask]
  split
  case h_10 => rfl
  all_goals
    rename_i hop
    simp [usedMask, hop, chanRefOf, sesRefOf, fieldSv, fieldCv, fieldCtx, fieldA0, fieldA1, fieldRo, fieldGo, fieldBo,
      fieldWo, fieldCount, BitVec.extractLsb'_and]

/-- R78: two words that agree in the opcode and in the fields its format lists decode to the same. -/
theorem decode_eq_of_agree {w v : Word64} (h : (w ^^^ v) &&& usedMask (fieldOp w) = 0#64) (pix : List Byte) :
    decode w pix = decode v pix := by
  have hsame : w &&& usedMask (fieldOp w) = v &&& usedMask (fieldOp w) := and_eq_and_of_xor_and h
  have hop : fieldOp w = fieldOp v := by
    rw [← fieldOp_and_usedMask w (fieldOp w), hsame, fieldOp_and_usedMask]
  calc decode w pix
    _ = decode (w &&& usedMask (fieldOp w)) pix := (decode_and_usedMask w pix).symm
    _ = decode (v &&& usedMask (fieldOp v)) pix := by rw [hsame, hop]
    _ = decode v pix := decode_and_usedMask v pix

/-! ### The encoder (R80) -/

@[simp] theorem encode_word (i : Instr) : (encode i).word = encodeWord i := by
  cases i <;> rfl

/-- R74: the opcode of the word, and the buffer only `TX.WRITE` has. -/
theorem encode_opcode (i : Instr) : fieldOp (encode i).word = i.opcode ∧ ((encode i).pix = [] ∨ i.opcode = 8#4) :=
  match i with
  | .crcInit => Laws.EncodedOpcode.crcInit
  | .crcUpd b => Laws.EncodedOpcode.crcUpd b
  | .crcFin => Laws.EncodedOpcode.crcFin
  | .chCfg ch num kind r g b w => Laws.EncodedOpcode.chCfg ch num kind r g b w
  | .chKind ch kind => Laws.EncodedOpcode.chKind ch kind
  | .sOpen => Laws.EncodedOpcode.sOpen
  | .sClose sr => Laws.EncodedOpcode.sClose sr
  | .txWrite sr ch n pix => Laws.EncodedOpcode.txWrite sr ch n pix
  | .txCommit sr => Laws.EncodedOpcode.txCommit sr

/-- R74: the opcodes given to commands are 1 to 9. -/
theorem Instr.opcode_assigned (i : Instr) : 1 ≤ i.opcode.toNat ∧ i.opcode.toNat ≤ 9 := by
  cases i <;> simp [Instr.opcode]

/-- R80: an absent channel reference is written with 0 in `ctx`. -/
theorem encodeWord_present_or_index_zero (i : Instr) :
    fieldCv (encodeWord i) = true ∨ fieldCtx (encodeWord i) = 0#4 := by
  cases i with
  | chCfg ch | chKind ch | txWrite sr ch => simpa [encodeWord] using ch.present_or_index_zero
  | crcInit | crcUpd | crcFin | sOpen | sClose | txCommit => simp [encodeWord]

/-- Every command is read back from what it is written as. -/
theorem decode_encode (i : Instr) : decode (encode i).word (encode i).pix = .ok i := by
  cases i <;> simp [encode, encodeWord, decode]

/-- A command is written as the word it was decoded from, under the mask of the fields it decodes. -/
theorem encodeWord_of_decode {w : Word64} {pix : List Byte} {i : Instr} (h : decode w pix = .ok i)
    (hch : fieldCv w = true ∨ fieldCtx w = 0#4) : encodeWord i = w &&& usedMask (fieldOp w) := by
  rw [← usedMask_and_listed, ← BitVec.and_assoc, ← packWord_fields, fieldOp_and_usedMask]
  rcases decode_ok h with ⟨hop, rfl⟩ | ⟨hop, rfl⟩ | ⟨hop, rfl⟩ | ⟨hop, rfl⟩ | ⟨hop, rfl⟩ | ⟨hop, rfl⟩ | ⟨hop, rfl⟩ |
    ⟨hop, rfl⟩ | ⟨hop, rfl⟩
  all_goals
    simp [encodeWord, hop, usedMask, chanRefOf_index hch, fieldSv, fieldCv, fieldCtx, fieldA0, fieldA1, fieldRo,
      fieldGo, fieldBo, fieldWo, BitVec.extractLsb'_and]

/-- A command is written with the buffer it was decoded from, where only `TX.WRITE` was presented one. -/
theorem encode_pix_of_decode {w : Word64} {pix : List Byte} {i : Instr} (h : decode w pix = .ok i)
    (hpix : fieldOp w = 8#4 ∨ pix = []) : (encode i).pix = pix := by
  rcases decode_ok h with ⟨hop, rfl⟩ | ⟨hop, rfl⟩ | ⟨hop, rfl⟩ | ⟨hop, rfl⟩ | ⟨hop, rfl⟩ | ⟨hop, rfl⟩ | ⟨hop, rfl⟩ |
    ⟨hop, rfl⟩ | ⟨hop, rfl⟩
  all_goals simp_all [encode]

/-- R78, R80: the word of a command is zero in every field its format does not list. -/
theorem encodeWord_and_usedMask (i : Instr) : encodeWord i &&& usedMask i.opcode = encodeWord i := by
  have h := encodeWord_of_decode (decode_encode i)
  rw [(encode_opcode i).1, encode_word] at h
  exact (h (encodeWord_present_or_index_zero i)).symm

/-! ### Well-formed commands (R80) -/

theorem PortCommand.wf_iff (c : PortCommand) : c.wf = true ↔
    (1 ≤ (fieldOp c.word).toNat ∧ (fieldOp c.word).toNat ≤ 9) ∧
    c.word &&& usedMask (fieldOp c.word) = c.word ∧
    (fieldCv c.word = true ∨ fieldCtx c.word = 0#4) ∧
    (fieldOp c.word = 8#4 ∨ c.pix = []) := by
  simp [PortCommand.wf, opcodeAssigned, ignoredFieldsZero, absentChannelZero, pixOnlyWithWrite, fieldOp, fieldCv,
    fieldCtx, and_not_eq_zero_iff, and_assoc]

theorem encode_wf (i : Instr) : (encode i).wf = true := by
  obtain ⟨hop, hpix⟩ := encode_opcode i
  rw [PortCommand.wf_iff, hop, encode_word]
  exact ⟨i.opcode_assigned, encodeWord_and_usedMask i, encodeWord_present_or_index_zero i, hpix.symm⟩

/-- A well-formed command is what the command it decodes to is written as. -/
theorem encode_of_decode {c : PortCommand} {i : Instr} (hwf : c.wf = true) (h : decode c.word c.pix = .ok i) :
    encode i = c := by
  obtain ⟨-, hmask, hch, hpix⟩ := c.wf_iff.mp hwf
  calc encode i
    _ = ⟨encodeWord i, (encode i).pix⟩ := by rw [← encode_word]
    _ = ⟨c.word, c.pix⟩ := by rw [encodeWord_of_decode h hch, hmask, encode_pix_of_decode h hpix]

/-! ### The statements about the encoding -/

/-- Settles O1: `decode_encode`, and the encoder writes nothing outside the mask of the fields it decodes. -/
theorem encodeThenDecodeGivesTheCommand : Obligations.EncodeThenDecodeGivesTheCommand := by
  unfold Obligations.EncodeThenDecodeGivesTheCommand
  exact fun i => ⟨decode_encode i, encode_wf i⟩

/-- Settles O2: an assigned opcode decodes, and what it decodes to is written as the well-formed command again. -/
theorem wellFormedCommandHasOneInstruction : Obligations.WellFormedCommandHasOneInstruction := by
  unfold Obligations.WellFormedCommandHasOneInstruction
  intro c hwf
  obtain ⟨⟨h1, h9⟩, -⟩ := c.wf_iff.mp hwf
  obtain ⟨i, hi⟩ := decode_ok_of_assigned h1 h9 c.pix
  exact ⟨i, hi, encode_of_decode hwf hi⟩

/-- Settles O5: the decoder computes each of the six. -/
theorem wordsOfTheFieldTableDecode : Obligations.WordsOfTheFieldTableDecode := by
  unfold Obligations.WordsOfTheFieldTableDecode
  exact ⟨rfl, rfl, rfl, rfl, rfl, rfl⟩

end Sys2Proof

namespace Sys2Proof.Machine

/-! ### The port (R73, R77) -/

/-- R77: a reserved opcode is answered, and runs nothing. -/
theorem step_of_reserved {s : State} {c : PortCommand} {rest : List HostAction} (hp : s.phase = .idle)
    (hq : s.port = .command c :: rest) (hop : fieldOp c.word = 0#4 ∨ 10 ≤ (fieldOp c.word).toNat) :
    step s = .next ({ s with port := rest }.respond .illegalCommand 0) := by
  simp [step, State.fetch, hp, hq, decode_of_reserved hop]

/-- A step depends on the presented word only by what it decodes to. -/
theorem step_congr_of_decode {s : State} {c d : PortCommand} (hp : s.phase = .idle)
    (h : decode c.word c.pix = decode d.word d.pix) (rest : List HostAction) :
    step { s with port := .command c :: rest } = step { s with port := .command d :: rest } := by
  simp [step, State.fetch, hp, h]

/-- R80: an idle core runs the command whose encoding is presented. -/
theorem step_of_encode {s : State} {i : Instr} {rest : List HostAction} (hp : s.phase = .idle)
    (hq : s.port = .command (encode i) :: rest) : step s = exec i { s with port := rest } :=
  step_of_command hp hq (decode_encode i)

/-! ### The response word (R75, R76) -/

/-- R75: the status is read back from the word it was put into. -/
theorem rspStatus_rspWord (st : Status) (data : Word32) : rspStatus (rspWord st data) = st.code := by
  ext i hi
  have h32 : i < 32 := by omega
  have h64 : i < 64 := by omega
  simp [rspStatus, rspWord, hi, h32, h64]

/-- R75, R76: every response word the core forms is one of the form of the table. -/
theorem legalResponse_rspWord (st : Status) (data : Word32) : LegalResponse (rspWord st data) := by
  constructor
  · ext i hi
    have h32 : 4 + i < 32 := by omega
    simp [rspWord, h32]
  · rw [rspStatus_rspWord]
    cases st <;> decide

/-- R75: the word of an `OK` is its data in bits 63:32. -/
theorem rspWord_ok (data : Word32) : rspWord .ok data = data.setWidth 64 <<< 32 := BitVec.or_zero

/-! ### The response of a command (R70, R191) -/

/-- R191, R75: from `s` to `t` one response is added, with a status the row of `i` lists, and with data 0 where no rule
gives other data. -/
def AnswersOnce (i : Instr) (s t : State) : Prop :=
  ∃ st data, t.rsps = s.rsps ++ [rspWord st data] ∧ st ∈ statusesOf i ∧
    (data ≠ 0 → st = .noDriver ∨ i = .crcInit ∨ (∃ b, i = .crcUpd b) ∨ i = .crcFin)

/-- A response without data. -/
theorem AnswersOnce.of_status {i : Instr} {s t : State} (st : Status) (h : t.rsps = s.rsps ++ [rspWord st 0])
    (hst : st ∈ statusesOf i) : AnswersOnce i s t :=
  ⟨st, 0, h, hst, fun h0 => absurd rfl h0⟩

/-- R70, R191: a command answers once by its row of the table, or is a `TX.COMMIT` that waits and has not answered. -/
theorem exec_answersOnce_or_waits {i : Instr} {s t : State} (he : exec i s = .next t) :
    AnswersOnce i s t ∨ (t.rsps = s.rsps ∧ t.phase = .wait ∧ ∃ sr, i = .txCommit sr) := by
  cases i with
  | crcInit => cases he; exact .inl ⟨.ok, _, rfl, by simp [statusesOf], by simp⟩
  | crcUpd b => cases he; exact .inl ⟨.ok, _, rfl, by simp [statusesOf], by simp⟩
  | crcFin => cases he; exact .inl ⟨.ok, _, rfl, by simp [statusesOf], by simp⟩
  | chCfg ch num kind r g b w =>
    rcases execChCfg_next he with ⟨st, hst, rfl⟩ | ⟨k, c, -, -, -, rfl⟩
    · exact .inl (.of_status st rfl (by simp [statusesOf, hst]))
    · exact .inl (.of_status .ok rfl (by simp [statusesOf]))
  | chKind ch kind =>
    rcases execChKind_next he with ⟨st, hst, rfl⟩ | ⟨k, c, -, -, rfl⟩
    · exact .inl (.of_status st rfl (by simp [statusesOf, hst]))
    · exact .inl (.of_status .ok rfl (by simp [statusesOf]))
  | sOpen =>
    rcases execSOpen_next he with ⟨-, rfl⟩ | ⟨-, code, -, rfl⟩ | ⟨-, -, now, s2, hs, rfl⟩
    · exact .inl (.of_status .busy rfl (by simp [statusesOf]))
    · exact .inl ⟨.noDriver, code, by simp, by simp [statusesOf], by simp⟩
    · exact .inl (.of_status .ok (by simp [State.sampleNow_rsps hs]) (by simp [statusesOf]))
  | sClose sr =>
    rcases execSClose_next he with ⟨st, hst, rfl⟩ | ⟨-, -, rfl⟩
    · exact .inl (.of_status st rfl (by simp [statusesOf, hst]))
    · exact .inl (.of_status .ok rfl (by simp [statusesOf]))
  | txWrite sr ch n pix =>
    rcases execTxWrite_next he with ⟨st, hst, rfl⟩ | ⟨k, c, -, -, -, -, rfl⟩
    · exact .inl (.of_status st rfl (by simp [statusesOf, hst]))
    · exact .inl (.of_status .ok rfl (by simp [statusesOf]))
  | txCommit sr =>
    rcases execTxCommit_next he with ⟨-, st, hst, rfl⟩ | ⟨-, -, -, rfl⟩ | ⟨hp, hpoll⟩
    · exact .inl (.of_status st rfl (by simp [statusesOf, hst]))
    · exact .inr ⟨rfl, rfl, sr, rfl⟩
    · rcases State.commitPoll_next hpoll with ⟨t1, h1, -⟩ | ⟨t1, s1, t2, s2, h1, -, h2, rfl⟩
      · exact .inr ⟨State.sampleNow_rsps h1, by rw [State.sampleNow_phase h1, hp], sr, rfl⟩
      · have hkept : s2.rsps = s.rsps := (State.sampleNow_rsps h2).trans (State.sampleNow_rsps h1)
        exact .inl (.of_status .ok (by simp [hkept]) (by simp [statusesOf]))

/-- R70: a step adds no response, or one word that the core forms. -/
theorem step_rsps {s t : State} (h : step s = .next t) :
    t.rsps = s.rsps ∨ ∃ st data, t.rsps = s.rsps ++ [rspWord st data] := by
  have hexec {i : Instr} {u : State} (he : exec i u = .next t) :
      t.rsps = u.rsps ∨ ∃ st data, t.rsps = u.rsps ++ [rspWord st data] := by
    rcases exec_answersOnce_or_waits he with ⟨st, data, hr, -⟩ | ⟨hr, -⟩
    · exact .inr ⟨st, data, hr⟩
    · exact .inl hr
  rcases step_next h with ⟨-, he⟩ | ⟨-, -, rfl⟩ | ⟨-, rest, -, rfl⟩ | ⟨-, c, rest, -, -, rfl⟩ |
    ⟨-, c, rest, i, -, -, he⟩
  · exact hexec he
  · exact .inl rfl
  · exact .inl rfl
  · exact .inr ⟨_, _, rfl⟩
  · exact hexec (u := { s with port := rest }) he

/-! ### The checksum through the port (R81) -/

theorem step_crcInit {s : State} {rest : List HostAction} (hp : s.phase = .idle)
    (hq : s.port = .command (encode .crcInit) :: rest) : step s = .next { s with
      crc := crcInitValue, port := rest, rsps := s.rsps ++ [rspWord .ok crcInitValue] } :=
  step_of_encode hp hq

theorem step_crcUpd {s : State} {b : Byte} {rest : List HostAction} (hp : s.phase = .idle)
    (hq : s.port = .command (encode (.crcUpd b)) :: rest) : step s = .next { s with
      crc := crcByte s.crc b, port := rest, rsps := s.rsps ++ [rspWord .ok (crcByte s.crc b)] } :=
  step_of_encode hp hq

theorem step_crcFin {s : State} {rest : List HostAction} (hp : s.phase = .idle)
    (hq : s.port = .command (encode .crcFin) :: rest) : step s = .next { s with
      port := rest, rsps := s.rsps ++ [rspWord .ok (crcFin s.crc)] } :=
  step_of_encode hp hq

/-- R106: the responses to one `CRC.UPD` a byte, from the running checksum `crc` on. -/
def crcUpdResponses (crc : Word32) (bs : List Byte) : List Word64 :=
  match bs with
  | [] => []
  | b :: rest => rspWord .ok (crcByte crc b) :: crcUpdResponses (crcByte crc b) rest

@[simp] theorem length_crcUpdResponses (crc : Word32) (bs : List Byte) :
    (crcUpdResponses crc bs).length = bs.length := by
  induction bs generalizing crc with
  | nil => rfl
  | cons b rest ih => simp [crcUpdResponses, ih]

/-- R104, R106: one `CRC.UPD` a byte folds the bytes into the running checksum. -/
theorem runSteps_crcUpds {bs : List Byte} {s : State} {rest : List HostAction} (hp : s.phase = .idle)
    (hq : s.port = bs.map (fun b => .command (encode (.crcUpd b))) ++ rest) :
    runSteps bs.length s = .next { s with
      crc := crcBytes s.crc bs, port := rest, rsps := s.rsps ++ crcUpdResponses s.crc bs } := by
  induction bs generalizing s with
  | nil =>
    obtain rfl : s.port = rest := hq
    simp [runSteps, crcBytes, crcUpdResponses]
  | cons b bs ih =>
    have hfirst := (runSteps_one s).trans (step_crcUpd hp hq)
    rw [List.length_cons, Nat.add_comm, runSteps_add hfirst]
    refine Eq.trans (ih hp rfl) ?_
    simp [crcBytes, crcUpdResponses]

/-! ### The layout of a channel-write record (R82 to R88) -/

/-- R144: there is no record exactly where the buffer is too short. -/
theorem encChannelWrite_none {c : ChanCtx} {n : BitVec 16} {pix : List Byte} :
    encChannelWrite c n pix = none ↔ pix.length < need n c.width := by
  rw [← readPix_none, encChannelWrite]
  split <;> simp [*]

theorem encChannelWrite_some {c : ChanCtx} {n : BitVec 16} {pix bs : List Byte}
    (h : encChannelWrite c n pix = some bs) :
    need n c.width ≤ pix.length ∧ bs = record (bodyWrite c n (pix.take (need n c.width))) := by
  unfold encChannelWrite at h
  split at h
  · next payload hp =>
    obtain ⟨hle, rfl⟩ := readPix_some hp
    cases h
    exact ⟨hle, rfl⟩
  · cases h

/-- R86: the payload stands after the ten bytes of header and channel_info. -/
theorem getElem?_bodyWrite (c : ChanCtx) (n : BitVec 16) (payload : List Byte) (k : Nat) :
    (bodyWrite c n payload)[10 + k]? = payload[k]? := by
  rw [Nat.add_comm]
  rfl

/-! ### The statements about the port, the responses and the records -/

/-- Settles O3: the step looks at the word through the decoder alone, and the encoder writes under the mask. -/
theorem ignoredFieldsChangeNothing : Obligations.IgnoredFieldsChangeNothing := by
  unfold Obligations.IgnoredFieldsChangeNothing
  refine ⟨fun s w v pix rest hp h => ?_, fun i => ?_⟩
  · exact step_congr_of_decode (c := ⟨w, pix⟩) (d := ⟨v, pix⟩) hp (decode_eq_of_agree h pix) rest
  · rw [encode_word, and_not_eq_zero_iff]
    exact encodeWord_and_usedMask i

/-- Settles O4: `step_of_reserved`, with the response word written out. -/
theorem reservedOpcodeIsAnsweredIllegalCommand : Obligations.ReservedOpcodeIsAnsweredIllegalCommand := by
  unfold Obligations.ReservedOpcodeIsAnsweredIllegalCommand
  exact fun s c rest hp hq hop => step_of_reserved hp hq hop

/-- Settles O16: the three parts of the run, one after the other. -/
theorem checksumOfBytesThroughThePort : Obligations.ChecksumOfBytesThroughThePort := by
  unfold Obligations.ChecksumOfBytesThroughThePort
  intro bs s rest hp hq
  have hinit := (runSteps_one s).trans (step_crcInit hp hq)
  have hupds := (runSteps_add hinit).trans (runSteps_crcUpds hp rfl)
  have hfin := (runSteps_succ hupds).trans (step_crcFin hp rfl)
  refine ⟨rspWord .ok crcInitValue :: crcUpdResponses crcInitValue bs, ?_, by simp⟩
  rw [show bs.length + 2 = 1 + bs.length + 1 by omega, hfin, ← rspWord_ok, crc32]
  simp [crcInitValue]

/-- Settles O23: the record is its body, ten bytes and the payload, and the trailer. -/
theorem channelWriteRecordLayout : Obligations.ChannelWriteRecordLayout := by
  unfold Obligations.ChannelWriteRecordLayout
  refine fun c n pix => ⟨encChannelWrite_none, fun bs hbs => ?_⟩
  obtain ⟨hle, rfl⟩ := encChannelWrite_some hbs
  rw [← need]
  have hbody : (bodyWrite c n (pix.take (need n c.width))).length = 10 + need n c.width := by
    rw [length_bodyWrite, List.length_take_of_le hle, Nat.add_comm]
  refine ⟨?_, rfl, rfl, rfl, rfl, rfl, fun k hk => ?_, crc32 (bodyWrite c n (pix.take (need n c.width))), ?_, ?_⟩
  · rw [length_record, hbody]
    omega
  · rw [record, List.getElem?_append_left (by omega), getElem?_bodyWrite, List.getElem?_take_of_lt hk]
  · rw [record, List.take_left' hbody]
  · rw [record, List.drop_left' hbody]
    rfl

/-- Settles O40: the word of `AnswersOnce`, or the commit that waits. -/
theorem everyCommandGivesOneResponse : Obligations.EveryCommandGivesOneResponse := by
  unfold Obligations.EveryCommandGivesOneResponse
  intro i s t he
  exact (exec_answersOnce_or_waits he).imp_left fun ⟨st, data, hr, _⟩ => ⟨rspWord st data, hr⟩

/-- Settles O41: a commit that waits has added no response. -/
theorem statusIsOneTheTableLists : Obligations.StatusIsOneTheTableLists := by
  unfold Obligations.StatusIsOneTheTableLists
  intro i s t he hne
  exact (exec_answersOnce_or_waits he).resolve_right fun ⟨hr, _⟩ => hne hr

/-- Settles O42: the one word a step may add is in the form of R75. -/
theorem stepsKeepResponsesLegal : Obligations.StepsKeepResponsesLegal := by
  unfold Obligations.StepsKeepResponsesLegal
  intro s t hs hstep w hw
  rcases step_rsps hstep with hr | ⟨st, data, hr⟩
  · exact hs w (hr ▸ hw)
  · rw [hr, List.mem_append, List.mem_singleton] at hw
    rcases hw with hw | rfl
    · exact hs w hw
    · exact legalResponse_rspWord st data

/-- Settles O50: a wait changes nothing but the clock's inputs, and a waiting state is not final. -/
theorem waitingRunIsNotFinal : Obligations.WaitingRunIsNotFinal := by
  unfold Obligations.WaitingRunIsNotFinal
  intro s t k hw ht
  have hwait : t.phase = .wait := hw.phase_eq ht
  have hsame : SameButClock s t := hw.sameButClock ht
  refine ⟨fun ⟨_, hidle⟩ => ?_, by rw [hsame], hw.rsps_eq ht, ?_⟩
  · rw [hwait] at hidle
    cases hidle
  · rw [hsame]
    exact ⟨rfl, rfl, rfl, rfl, rfl, rfl⟩

end Sys2Proof.Machine
end

section
/-! PROOF. The checksum accumulator (family 40_crc.md): the bit-serial steps and the table made of them, the byte step
as a bijection, the responses to a sequence of `CRC.UPD`, and the checksum a record leaves for `CRC.FIN`. -/

namespace Sys2Proof.Machine

/-! ### Bit-serial steps (R101, R108) -/

/-- Bit `i` after a bit step: the next bit of the state, with the polynomial's bit put in when a 1 goes out. -/
theorem getLsbD_crcBit (s : Word32) (x : Bool) (i : Nat) :
    (crcBit s x).getLsbD i = (s.getLsbD (i + 1) ^^ ((s.getLsbD 0 ^^ x) && crcPoly.getLsbD i)) := by
  cases hout : s.getLsbD 0 ^^ x <;>
    simp only [crcBit, hout, if_true, Bool.false_eq_true, if_false, BitVec.getLsbD_xor, BitVec.getLsbD_ushiftRight,
      Nat.add_comm 1 i, Bool.true_and, Bool.false_and, Bool.xor_false]

/-- A bit step tells a word XORed into the state by its bit 0 alone; the rest of the word is only shifted. -/
theorem crcBit_xor (s m : Word32) (x : Bool) :
    crcBit (s ^^^ m) x = crcBit s (x ^^ m.getLsbD 0) ^^^ m >>> 1 := by
  refine BitVec.eq_of_getLsbD_eq fun i _ => ?_
  simp only [getLsbD_crcBit, BitVec.getLsbD_xor, BitVec.getLsbD_ushiftRight, Nat.add_comm 1 i]
  rw [Bool.xor_comm x, ← Bool.xor_assoc]
  exact Bool.xor_right_comm _ _ _

/-- The polynomial has bit 31, which a shift leaves empty, so the top bit tells which bit went out. -/
theorem crcBit_injective (x : Bool) : Function.Injective fun s => crcBit s x := by
  intro s t h
  have hbit (i : Nat) : (crcBit s x).getLsbD i = (crcBit t x).getLsbD i := congrArg (·.getLsbD i) h
  simp only [getLsbD_crcBit] at hbit
  have hlow : s.getLsbD 0 = t.getLsbD 0 := by simpa [crcPoly] using hbit 31
  refine BitVec.eq_of_getLsbD_eq fun i _ => ?_
  cases i with
  | zero => exact hlow
  | succ i => exact Bool.xor_left_inj.mp (hlow ▸ hbit i)

/-- `k` bit steps, on the bits `f 0`, `f 1`, … in this order. -/
def crcBits (s : Word32) (f : Nat → Bool) (k : Nat) : Word32 :=
  (List.range k).foldl (fun acc i => crcBit acc (f i)) s

@[simp] theorem crcBits_zero (s : Word32) (f : Nat → Bool) : crcBits s f 0 = s := rfl

theorem crcBits_succ (s : Word32) (f : Nat → Bool) (k : Nat) :
    crcBits s f (k + 1) = crcBit (crcBits s f k) (f k) := by
  simp [crcBits, List.range_succ]

theorem crcBits_add (s : Word32) (f : Nat → Bool) (j k : Nat) :
    crcBits s f (j + k) = crcBits (crcBits s f j) (fun i => f (j + i)) k := by
  simp [crcBits, List.range_add, List.foldl_map]

/-- A word XORed into the state acts by its low `k` bits as data, and its other bits are only shifted. -/
theorem crcBits_xor (s m : Word32) (f : Nat → Bool) (k : Nat) :
    crcBits (s ^^^ m) f k = crcBits s (fun i => f i ^^ m.getLsbD i) k ^^^ m >>> k := by
  induction k with
  | zero => simp
  | succ k ih =>
    rw [crcBits_succ, crcBits_succ, ih, crcBit_xor, BitVec.getLsbD_ushiftRight, BitVec.shiftRight_add, Nat.add_zero]

theorem crcBits_injective (f : Nat → Bool) (k : Nat) : Function.Injective fun s => crcBits s f k := by
  induction k with
  | zero => exact Function.injective_id
  | succ k ih =>
    simp only [crcBits_succ]
    exact (crcBit_injective (f k)).comp ih

theorem crcBits_congr (s : Word32) {f g : Nat → Bool} {k : Nat} (h : ∀ i < k, f i = g i) :
    crcBits s f k = crcBits s g k := by
  induction k with
  | zero => rfl
  | succ k ih => rw [crcBits_succ, crcBits_succ, ih fun i hi => h i (by omega), h k (by omega)]

/-! ### The table, the nibble step and the byte step (R100 to R103) -/

/-- R101: the sixteen entries, computed. -/
theorem crcT_eq_crcBits (k : BitVec 4) : crcT k = crcBits (k.setWidth 32) (fun _ => false) 4 := by
  revert k
  decide

/-- R102: what goes out of the state in four bit steps is the index of the table, and the rest is shifted by 4. -/
theorem crcNib_eq_crcBits (s : Word32) (n : BitVec 4) : crcNib s n = crcBits s n.getLsbD 4 := by
  generalize hk : (s ^^^ n.setWidth 32).extractLsb' 0 4 = k
  have hsplit : s = k.setWidth 32 ^^^ (s ^^^ k.setWidth 32) := by
    rw [BitVec.xor_comm s, ← BitVec.xor_assoc, BitVec.xor_self, BitVec.zero_xor]
  have hhigh : (s ^^^ k.setWidth 32) >>> 4 = s >>> 4 := by
    ext i hi
    simp
  have hlow : ∀ i < 4, (n.getLsbD i ^^ (s ^^^ k.setWidth 32).getLsbD i) = false := by
    intro i hi
    have hi32 : i < 32 := by omega
    simp [← hk, hi, hi32]
  calc crcNib s n = s >>> 4 ^^^ crcBits (k.setWidth 32) (fun _ => false) 4 := by
        rw [crcNib, hk, crcT_eq_crcBits]
    _ = crcBits (k.setWidth 32 ^^^ (s ^^^ k.setWidth 32)) n.getLsbD 4 := by
        rw [crcBits_xor, crcBits_congr _ hlow, hhigh, BitVec.xor_comm]
    _ = crcBits s n.getLsbD 4 := by rw [← hsplit]

/-- R103, R108: the low nibble's bits, then the high nibble's. -/
theorem crcByte_eq_crcBits (s : Word32) (b : Byte) : crcByte s b = crcBits s b.getLsbD 8 := by
  have hlow : ∀ i < 4, (b.extractLsb' 0 4).getLsbD i = b.getLsbD i := fun i hi => by simp [hi]
  have hhigh : ∀ i < 4, (b.extractLsb' 4 4).getLsbD i = b.getLsbD (4 + i) := fun i hi => by simp [hi]
  rw [crcByte, crcNib_eq_crcBits, crcNib_eq_crcBits, crcBits_congr s hlow, crcBits_congr _ hhigh]
  exact (crcBits_add s b.getLsbD 4 4).symm

/-- R109: no two states are folded to one. -/
theorem crcByte_injective (b : Byte) : Function.Injective fun s => crcByte s b := by
  simp only [crcByte_eq_crcBits]
  exact crcBits_injective b.getLsbD 8

/-! ### The commands (R105 to R107) -/

theorem exec_crcInit (s : State) :
    exec .crcInit s = .next { s with crc := crcInitValue, rsps := s.rsps ++ [rspWord .ok crcInitValue] } := rfl

theorem exec_crcUpd (s : State) (b : Byte) : exec (.crcUpd b) s = .next { s with
    crc := crcByte s.crc b, rsps := s.rsps ++ [rspWord .ok (crcByte s.crc b)] } := rfl

theorem exec_crcFin (s : State) :
    exec .crcFin s = .next { s with rsps := s.rsps ++ [rspWord .ok (crcFin s.crc)] } := rfl

/-- R106: the response to each byte is the running checksum, that byte folded in. -/
theorem getElem?_crcUpdResponses {bs : List Byte} {k : Nat} (crc : Word32) (h : k < bs.length) :
    (crcUpdResponses crc bs)[k]? = some (rspWord .ok (crcBytes crc (bs.take (k + 1)))) := by
  induction bs generalizing crc k with
  | nil => cases h
  | cons b rest ih =>
    cases k with
    | zero => rfl
    | succ k => exact ih (crcByte crc b) (Nat.lt_of_succ_lt_succ h)

/-! ### The checksum a record leaves (R149, R165, R172) -/

/-- From `s` to `t` the record of `body` was handed over, and the checksum register holds the body's running state. -/
def SentRecord (body : List Byte) (s t : State) : Prop :=
  t.xlog = s.xlog ++ (record body).map .xByte ∧ t.crc = crcBytes crcInitValue body

/-- R107: `CRC.FIN` makes of the running state the checksum of the body. -/
theorem SentRecord.crcFin_eq {body : List Byte} {s t : State} (h : SentRecord body s t) :
    crcFin t.crc = crc32 body := by
  rw [h.2, crc32]

/-- R165: a write that reports sends nothing. -/
theorem execTxWrite_sends {sr : SesRef} {ch : ChanRef} {n : BitVec 16} {pix : List Byte} {s t : State}
    (he : execTxWrite sr ch n pix s = .next t) : t.xlog = s.xlog ∨ ∃ body, SentRecord body s t := by
  rcases execTxWrite_next he with ⟨st, -, rfl⟩ | ⟨k, c, -, -, -, -, rfl⟩
  · exact .inl rfl
  · exact .inr ⟨_, rfl, rfl⟩

/-- R172: a commit that reports, is accepted or finds the gate closed sends nothing. -/
theorem exec_txCommit_sends {sr : SesRef} {s t : State} (he : exec (.txCommit sr) s = .next t) :
    t.xlog = s.xlog ∨ ∃ body, SentRecord body s t := by
  rcases exec_txCommit_next he with ⟨st, rfl⟩ | ⟨-, rfl⟩ | ⟨t1, h1⟩ | ⟨t1, s1, t2, s2, h1, h2, rfl⟩
  · exact .inl rfl
  · exact .inl rfl
  · exact .inl (State.sampleNow_xlog h1)
  · have hkept : s2.xlog = s.xlog := (State.sampleNow_xlog h2).trans (State.sampleNow_xlog h1)
    exact .inr ⟨bodyCommit, by simp [hkept], rfl⟩

/-! ### The statements -/

/-- Settles O11: `crcT_eq_crcBits`, its four steps written out. -/
theorem crcTableComesFromThePolynomial : Obligations.CrcTableComesFromThePolynomial := by
  unfold Obligations.CrcTableComesFromThePolynomial
  exact crcT_eq_crcBits

/-- Settles O12: `crcByte_eq_crcBits`, the fold written out. -/
theorem byteStepIsEightBitSteps : Obligations.ByteStepIsEightBitSteps := by
  unfold Obligations.ByteStepIsEightBitSteps
  exact crcByte_eq_crcBits

/-- Settles O13: an injection of a finite set into itself is a bijection. -/
theorem byteStepIsABijection : Obligations.ByteStepIsABijection := by
  unfold Obligations.ByteStepIsABijection
  exact fun b => Finite.injective_iff_bijective.mp (crcByte_injective b)

/-- Settles O14: the response word of an `OK` is its data alone. -/
theorem crcCommandsComplete : Obligations.CrcCommandsComplete := by
  unfold Obligations.CrcCommandsComplete
  refine fun s b => ⟨exec_crcInit s, ?_, ?_⟩
  · rw [exec_crcUpd, rspWord_ok]
  · rw [exec_crcFin, rspWord_ok, crcFin, crcXorOut]

/-- Settles O15: the run of `runSteps_crcUpds`, and its responses one by one. -/
theorem crcUpdSequenceFoldsTheBytes : Obligations.CrcUpdSequenceFoldsTheBytes := by
  unfold Obligations.CrcUpdSequenceFoldsTheBytes
  intro bs s rest hp hq
  refine ⟨crcUpdResponses s.crc bs, runSteps_crcUpds hp hq, length_crcUpdResponses s.crc bs, fun k hk => ?_⟩
  rw [getElem?_crcUpdResponses s.crc hk, rspWord_ok]

/-- Settles O17: a changed trace means a record was sent, and its body's running checksum is what `CRC.FIN` finalizes. -/
theorem crcFinReturnsTheRecordsChecksum : Obligations.CrcFinReturnsTheRecordsChecksum := by
  unfold Obligations.CrcFinReturnsTheRecordsChecksum
  intro i s t he hi hne
  have hsends : t.xlog = s.xlog ∨ ∃ body, SentRecord body s t := by
    rcases hi with ⟨sr, ch, n, pix, rfl⟩ | ⟨sr, rfl⟩
    · exact execTxWrite_sends he
    · exact exec_txCommit_sends he
  obtain ⟨body, hsent⟩ := hsends.resolve_left hne
  refine ⟨body, crc32 body, hsent.1, rfl, ?_⟩
  rw [exec_crcFin, hsent.crcFin_eq, rspWord_ok]

end Sys2Proof.Machine
end

section
/-! PROOF. The channel model (family 41_channel.md): the offset test one operand at a time, the placement byte, and what
`CH.CFG` and `CH.KIND` do at each outcome of their checks. -/

namespace Sys2Proof.Machine

/-! ### The offset test (R122) -/

/-- The mask asks for the bits above the low two, which are the quotient by four. -/
theorem and_high_mask_eq_zero_iff (x : Byte) : x &&& 0xFC#8 = 0#8 ↔ x.toNat ≤ 3 := by
  have hmask : x &&& 0xFC#8 = x >>> 2 <<< 2 := by
    rw [BitVec.shiftLeft_ushiftRight]
    rfl
  rw [hmask, ← BitVec.toNat_inj]
  simp [Nat.shiftRight_eq_div_pow, Nat.shiftLeft_eq]
  omega

/-- R122: the mask of a disjunction is the disjunction of the masks, so each offset is tested on its own. -/
theorem offsOk_iff (r g b w : Byte) :
    offsOk r g b w = true ↔ r.toNat ≤ 3 ∧ g.toNat ≤ 3 ∧ b.toNat ≤ 3 ∧ w.toNat ≤ 3 := by
  simp only [offsOk, beq_iff_eq, BitVec.and_or_distrib_right, BitVec.or_eq_zero_iff, and_high_mask_eq_zero_iff,
    and_assoc]

/-! ### The placement byte (R123, R124) -/

/-- The number of two fields put together. -/
theorem toNat_append_eq_add {m n : Nat} (hi : BitVec m) (lo : BitVec n) :
    (hi ++ lo).toNat = 2 ^ n * hi.toNat + lo.toNat := by
  rw [BitVec.toNat_append, Nat.shiftLeft_eq, Nat.mul_comm, Nat.two_pow_add_eq_or_of_lt lo.isLt]

theorem toNat_pack (r g b w : BitVec 2) :
    (pack r g b w).toNat = r.toNat + 4 * g.toNat + 16 * b.toNat + 64 * w.toNat := by
  simp only [pack, toNat_append_eq_add]
  omega

theorem unpack_pack (r g b w : BitVec 2) : unpack (pack r g b w) = (r, g, b, w) := by
  have hr : (w ++ b ++ g ++ r).extractLsb' 0 2 = r := BitVec.extractLsb'_append_eq_right
  have hg : (w ++ b ++ g ++ r).extractLsb' 2 2 = g := by
    rw [BitVec.extractLsb'_append_eq_of_le (by decide), BitVec.extractLsb'_append_eq_right]
  have hb : (w ++ b ++ g ++ r).extractLsb' 4 2 = b := by
    rw [BitVec.extractLsb'_append_eq_of_le (by decide), BitVec.extractLsb'_append_eq_of_le (by decide),
      BitVec.extractLsb'_append_eq_right]
  have hw : (w ++ b ++ g ++ r).extractLsb' 6 2 = w := by
    rw [BitVec.extractLsb'_append_eq_of_le (by decide), BitVec.extractLsb'_append_eq_of_le (by decide),
      BitVec.extractLsb'_append_eq_left]
  exact Prod.ext hr (Prod.ext hg (Prod.ext hb hw))

/-! ### The fields a context is given (R120, R126) -/

/-- R120: the width stored for a legal kind is the kind's own number. -/
theorem widthOf_eq_ofNat {kind : Byte} (h : kindOk kind = true) : widthOf kind = BitVec.ofNat 3 kind.toNat := by
  rw [← widthOf_of_kindOk kind h, BitVec.ofNat_toNat, BitVec.setWidth_eq]

/-- R126: the stored context, its width and offsets as numbers. -/
theorem configuredContext_eq {kind : Byte} (h : kindOk kind = true) (num r g b w : Byte) :
    configuredContext num kind r g b w =
      { num := num, kind := kind, width := BitVec.ofNat 3 kind.toNat, offR := BitVec.ofNat 2 r.toNat,
        offG := BitVec.ofNat 2 g.toNat, offB := BitVec.ofNat 2 b.toNat, offW := BitVec.ofNat 2 w.toNat,
        pcount := 0#16 } := by
  rw [configuredContext, widthOf_eq_ofNat h]
  rfl

/-! ### The checks of `CH.CFG`, in the order of R125 -/

section
variable {s : State} {ch : ChanRef} {k : Nat} {c : ChanCtx}

theorem exec_chCfg_of_absent (hc : s.channel ch = none) (num kind r g b w : Byte) :
    exec (.chCfg ch num kind r g b w) s = s.raise .invalidArgument 0 := by
  simp [exec, execChCfg, hc]

theorem exec_chCfg_of_unknown_kind {kind : Byte} (hc : s.channel ch = some (k, c)) (hk : ¬ kindOk kind = true)
    (num r g b w : Byte) : exec (.chCfg ch num kind r g b w) s = s.raise .unsupported 0 := by
  simp [exec, execChCfg, hc, hk]

theorem exec_chCfg_of_bad_offset {kind r g b w : Byte} (hc : s.channel ch = some (k, c)) (hk : kindOk kind = true)
    (ho : ¬ offsOk r g b w = true) (num : Byte) :
    exec (.chCfg ch num kind r g b w) s = s.raise .outOfRange 0 := by
  simp [exec, execChCfg, hc, hk, ho]

theorem exec_chCfg_of_legal {kind r g b w : Byte} (hc : s.channel ch = some (k, c)) (hk : kindOk kind = true)
    (ho : offsOk r g b w = true) (num : Byte) : exec (.chCfg ch num kind r g b w) s =
      .next ((s.setContext k (configuredContext num kind r g b w)).respond .ok 0) := by
  simp [exec, execChCfg, hc, hk, ho]

/-! ### The checks of `CH.KIND` (R131) -/

theorem exec_chKind_of_absent (hc : s.channel ch = none) (kind : Byte) :
    exec (.chKind ch kind) s = s.raise .invalidArgument 0 := by
  simp [exec, execChKind, hc]

theorem exec_chKind_of_unknown_kind {kind : Byte} (hc : s.channel ch = some (k, c)) (hk : ¬ kindOk kind = true) :
    exec (.chKind ch kind) s = s.raise .unsupported 0 := by
  simp [exec, execChKind, hc, hk]

theorem exec_chKind_of_legal {kind : Byte} (hc : s.channel ch = some (k, c)) (hk : kindOk kind = true) :
    exec (.chKind ch kind) s = .next ((s.setContext k (c.withKind kind)).respond .ok 0) := by
  simp [exec, execChKind, hc, hk]

end

/-! ### The statements about the channel model -/

/-- Settles O18: `offsOk_iff`. -/
theorem offsetTestIsEachAtMostThree : Obligations.OffsetTestIsEachAtMostThree := offsOk_iff

/-- Settles O20: one lemma about the checks for each clause. -/
theorem chCfgStoresOrReports : Obligations.ChCfgStoresOrReports := by
  unfold Obligations.ChCfgStoresOrReports
  intro s ch num kind r g b w
  simp only [← kindOk_iff, ← offsOk_iff]
  refine ⟨fun h => ?_, fun k c h => ?_⟩
  · exact exec_chCfg_of_absent (State.channel_of_absent h) num kind r g b w
  · have hc := State.channel_of_is h
    refine ⟨fun hk => ?_, fun hk ho => ?_, fun hk ho => ?_⟩
    · exact exec_chCfg_of_unknown_kind hc hk num r g b w
    · exact exec_chCfg_of_bad_offset hc hk ho num
    · rw [exec_chCfg_of_legal hc hk ho, configuredContext_eq hk]
      rfl

/-- Settles O21: one lemma about the checks for each clause. -/
theorem chKindStoresOrReports : Obligations.ChKindStoresOrReports := by
  unfold Obligations.ChKindStoresOrReports
  intro s ch kind
  simp only [← kindOk_iff]
  refine ⟨fun h => ?_, fun k c h => ?_⟩
  · exact exec_chKind_of_absent (State.channel_of_absent h) kind
  · have hc := State.channel_of_is h
    refine ⟨fun hk => exec_chKind_of_unknown_kind hc hk, fun hk => ?_⟩
    rw [exec_chKind_of_legal hc hk, ChanCtx.withKind, widthOf_eq_ofNat hk]
    rfl

/-- Settles O19: the fields of the byte stand at their places, as a number and read back. -/
theorem placementByteUnpacks : Obligations.PlacementByteUnpacks := by
  unfold Obligations.PlacementByteUnpacks
  exact fun r g b w => ⟨toNat_pack r g b w, unpack_pack r g b w⟩

end Sys2Proof.Machine
end

section
/-! PROOF. The record encoder (family 42_record_encoder.md): what the two loops of R149 hand over and fold in, and the
values of the commit record (R148). -/

namespace Sys2Proof.Machine

/-! ### Handing bytes over in pieces (R9, R55) -/

@[simp] theorem State.tx_nil (s : State) : s.tx [] = s := by
  simp [State.tx]

/-- The trace does not show where one hand-over ends and the next begins. -/
@[simp] theorem State.tx_tx (s : State) (xs ys : List Byte) : (s.tx xs).tx ys = s.tx (xs ++ ys) := by
  simp [State.tx]

/-! ### The loops of R149 -/

theorem State.streamBody_eq (s : State) (body : List Byte) :
    s.streamBody body = { s.tx body with crc := crcBytes s.crc body } := by
  induction body generalizing s with
  | nil => simp [State.streamBody, crcBytes]
  | cons x rest ih =>
    calc s.streamBody (x :: rest)
      _ = { (s.tx [x]).tx rest with crc := crcBytes (crcByte s.crc x) rest } := ih _
      _ = { s.tx (x :: rest) with crc := crcBytes s.crc (x :: rest) } := by
        rw [State.tx_tx, List.singleton_append, crcBytes]

theorem State.streamTrailer_eq (s : State) (ys : List Byte) : s.streamTrailer ys = s.tx ys := by
  induction ys generalizing s with
  | nil => simp [State.streamTrailer]
  | cons y rest ih => rw [State.streamTrailer, ih, State.tx_tx, List.singleton_append]

/-- After the body the register holds the running state of the body, so the four bytes that follow are its trailer. -/
theorem State.streamRecord_eq (s : State) (body : List Byte) :
    s.streamRecord body = { (s.tx body).tx (trailer body) with crc := crcBytes crcInitValue body } := by
  rw [State.streamRecord, State.streamBody_eq, State.streamTrailer_eq]
  rfl

/-! ### The statements about the record encoder -/

/-- Settles O24: both loops have run, and two hand-overs are one. -/
theorem streamingAgreesWithTheEncoder : Obligations.StreamingAgreesWithTheEncoder := by
  unfold Obligations.StreamingAgreesWithTheEncoder
  intro s body
  rw [State.streamRecord_eq, State.tx_tx, State.sendRecord, record]

/-- R148: the checksum of the commit record is its running state, finalized. -/
theorem crc32_bodyCommit : crc32 bodyCommit = 0xDF81389B#32 := by
  rw [crc32, crcBytes_bodyCommit]
  decide

/-- Settles O22: the bytes of the record and the running state are `record_bodyCommit` and `crcBytes_bodyCommit`. -/
theorem commitRecordIsTheConstant : Obligations.CommitRecordIsTheConstant := by
  unfold Obligations.CommitRecordIsTheConstant
  exact ⟨rfl, record_bodyCommit, crc32_bodyCommit, crcBytes_bodyCommit⟩

end Sys2Proof.Machine
end

section
/-! PROOF. The driver session (family 43_session.md): what `S.OPEN` and `S.CLOSE` do at each outcome of their checks, a
`TX.COMMIT` from the port, and the samples that find the gate closed. -/

namespace Sys2Proof.Machine

/-! ### The checks of `S.OPEN` (R162) -/

theorem exec_sOpen_of_open {s : State} (hl : s.linkOpen = true) : exec .sOpen s = s.raise .busy 0 := by
  simp [exec, execSOpen, hl]

/-- The factory answers an error: its code is reported, and only the factory's inputs have changed. -/
theorem exec_sOpen_of_err {s s1 : State} {code : Word32} (hl : s.linkOpen = false)
    (hx : s.xportOpen = (.err code, s1)) : exec .sOpen s = s1.raise .noDriver code := by
  simp [exec, execSOpen, hl, hx]

/-- Asking the factory touches the list of answers and the counter of free values alone, whatever it answers. -/
theorem State.xportOpen_eq {s s1 : State} {a : OpenAnswer} (hx : s.xportOpen = (a, s1)) :
    s1 = { s with answers := s1.answers, draws := s1.draws } := by
  simpa [hx] using s.xportOpen_snd

/-! ### The checks of `S.CLOSE` (R163, R176) -/

theorem exec_sClose_null (s : State) : exec (.sClose .null) s = s.raise .invalidArgument 0 := rfl

theorem exec_sClose_of_closed {s : State} (hl : s.linkOpen = false) :
    exec (.sClose .ses) s = s.raise .notConnected 0 := by
  simp [exec, execSClose, hl]

theorem exec_sClose_of_open {s : State} (hl : s.linkOpen = true) :
    exec (.sClose .ses) s = .next (({ s with linkOpen := false }.logEvent .xClose).respond .ok 0) := by
  simp [exec, execSClose, hl]

/-! ### `TX.COMMIT` from the port (R172) -/

/-- R72, R74: bits 4:0, the opcode and `sv`, are all that the word of a `TX.COMMIT` decodes. -/
theorem decode_txCommit_ses {w : Word64} (hw : w &&& 0x1F#64 = 0x19#64) (pix : List Byte) :
    decode w pix = .ok (.txCommit .ses) := by
  have hmask : w &&& usedMask 9#4 = 0x19#64 := hw
  have hop : fieldOp w = 9#4 := by
    rw [← fieldOp_and_usedMask w 9#4, hmask]
    rfl
  rw [← decode_and_usedMask, hop, hmask]
  rfl

/-- R172: the accept step of a `TX.COMMIT` whose checks pass. -/
theorem exec_txCommit_accept {s : State} (hp : s.phase = .idle) (hl : s.linkOpen = true) :
    exec (.txCommit .ses) s = .next { s with phase := .wait } := by
  rw [exec_txCommit_of_idle hp, State.commitAccept, if_pos hl]

/-! ### The commit gate over the samples (R170, R175) -/

/-- R170: under the monotone clock the gate's difference modulo 2^64 is the difference of the two numbers. -/
theorem gateOpen_iff_of_le {last now : Word64} (hle : last ≤ now) :
    gateOpen last now = true ↔ last.toNat + 310 ≤ now.toNat := by
  rw [gateOpen_iff]
  exact ⟨add_le_of_elapsed hle, elapsed_of_le⟩

/-- R175: a waiting commit draws the listed samples that find the gate closed, one a step, and nothing else changes. -/
theorem runSteps_closed {closed : List Word64} {s : State} {rest : List Word64} (hp : s.phase = .wait)
    (hs : s.samples = closed ++ rest) (hm : MonotoneFrom s.clkSeen closed)
    (hc : ∀ c ∈ closed, (c - s.lastCommit).toNat < 310) :
    ∃ seen, runSteps closed.length s = .next { s with samples := rest, clkSeen := seen } := by
  induction closed generalizing s with
  | nil => exact ⟨s.clkSeen, by rw [← show s.samples = rest from hs]; rfl⟩
  | cons c closed ih =>
    obtain ⟨h1, hm'⟩ := hm
    have hstep := step_wait_of_closed hp (State.sampleNow_cons hs h1) (hc c List.mem_cons_self)
    rw [List.length_cons, Nat.add_comm _ 1, runSteps_add ((runSteps_one s).trans hstep)]
    exact ih hp rfl hm' fun d hd => hc d (List.mem_cons_of_mem c hd)

/-! ### The statements about the session -/

/-- Settles O35: `runSteps_closed` as far as the gate is closed, `runSteps_closed_then_open` to the end. -/
theorem commitCompletesAtTheFirstOpenSample : Obligations.CommitCompletesAtTheFirstOpenSample := by
  unfold Obligations.CommitCompletesAtTheFirstOpenSample
  intro s closed rest hp hs hm hc
  constructor
  · obtain ⟨seen, hrun⟩ := runSteps_closed hp hs hm hc
    exact ⟨_, hrun, hp, ⟨rfl, rfl, rfl, rfl, rfl, rfl⟩, rfl, rfl⟩
  · rintro t1 t2 more rfl hm2 ho
    exact runSteps_closed_then_open hp hs hm2 hc ho

/-- Settles O33: the accept step, and then a wait in which no sample finds the gate closed. -/
theorem txCommitRunsOnListedSamples : Obligations.TxCommitRunsOnListedSamples := by
  unfold Obligations.TxCommitRunsOnListedSamples
  intro s w pix acts t1 t2 rest hp hl hq hw hs h1 h2 ho
  have haccept : step s = .next { s with port := acts, phase := .wait } := by
    rw [step_of_command hp hq (decode_txCommit_ses hw pix)]
    exact exec_txCommit_accept (s := { s with port := acts }) hp hl
  refine ⟨_, haccept, rfl, rfl, ?_⟩
  rw [← runSteps_one, hp]
  exact runSteps_closed_then_open (closed := []) rfl hs ⟨h1, h2, trivial⟩ (List.forall_mem_nil _) ho

/-- Settles O25: an open link, an error of the factory, and an `ok` with a sample drawn. -/
theorem sOpenOpensOrReports : Obligations.SOpenOpensOrReports := by
  unfold Obligations.SOpenOpensOrReports
  refine fun s => ⟨exec_sOpen_of_open, fun hl code s1 hx => ?_, fun hl s1 now s2 hx hn => ?_⟩
  · rw [exec_sOpen_of_err hl hx, State.xportOpen_eq hx]
    rfl
  · rw [exec_sOpen_of_ok hl hx hn, (State.sampleNow_some hn).2, State.xportOpen_eq hx]
    rfl

/-- Settles O34: `gateOpen_iff_of_le`. -/
theorem gateOpensAtExactly310 : Obligations.GateOpensAtExactly310 := by
  unfold Obligations.GateOpensAtExactly310
  exact fun _ _ => gateOpen_iff_of_le

/-- Settles O36: a case for each check, and the second close finds the link closed. -/
theorem sCloseClosesOrReports : Obligations.SCloseClosesOrReports := by
  unfold Obligations.SCloseClosesOrReports
  refine fun s sr => ⟨?_, ?_, ?_⟩
  · rintro rfl
    exact exec_sClose_null s
  · rintro rfl hl
    exact exec_sClose_of_closed hl
  · rintro rfl hl
    exact ⟨_, exec_sClose_of_open hl, rfl, exec_sClose_of_closed rfl⟩

end Sys2Proof.Machine
end

section
/-! PROOF. The exceptions (family 60_exceptions.md): what a command that answers a status other than `OK` has done, and
the step of a core with nothing to do. -/

namespace Sys2Proof.Machine

/-! ### The two ways to fail (R200) -/

/-- R200: a command that comes to a next state has answered from its own state, or with `NoDriver` from the state the
factory was asked in; or it has succeeded, or waits and has answered nothing. -/
theorem exec_raises_or_not_failed {i : Instr} {s t : State} (he : exec i s = .next t) :
    (∃ st, t = s.respond st 0) ∨ (∃ code, t = s.xportOpen.2.respond .noDriver code) ∨
      (∃ data, t.rsps = s.rsps ++ [rspWord .ok data]) ∨ t.rsps = s.rsps := by
  cases i with
  | crcInit | crcUpd b | crcFin => cases he; exact .inr (.inr (.inl ⟨_, rfl⟩))
  | chCfg ch num kind r g b w =>
    rcases execChCfg_next he with ⟨st, -, ht⟩ | ⟨k, c, -, -, -, rfl⟩
    · exact .inl ⟨st, ht⟩
    · exact .inr (.inr (.inl ⟨0, rfl⟩))
  | chKind ch kind =>
    rcases execChKind_next he with ⟨st, -, ht⟩ | ⟨k, c, -, -, rfl⟩
    · exact .inl ⟨st, ht⟩
    · exact .inr (.inr (.inl ⟨0, rfl⟩))
  | sOpen =>
    rcases execSOpen_next he with ⟨-, ht⟩ | ⟨-, code, -, ht⟩ | ⟨-, -, now, s2, hs, rfl⟩
    · exact .inl ⟨.busy, ht⟩
    · exact .inr (.inl ⟨code, ht⟩)
    · exact .inr (.inr (.inl ⟨0, by simp [State.sampleNow_rsps hs]⟩))
  | sClose sr =>
    rcases execSClose_next he with ⟨st, -, ht⟩ | ⟨-, -, rfl⟩
    · exact .inl ⟨st, ht⟩
    · exact .inr (.inr (.inl ⟨0, rfl⟩))
  | txWrite sr ch n pix =>
    rcases execTxWrite_next he with ⟨st, -, ht⟩ | ⟨k, c, -, -, -, -, rfl⟩
    · exact .inl ⟨st, ht⟩
    · exact .inr (.inr (.inl ⟨0, rfl⟩))
  | txCommit sr =>
    rcases exec_txCommit_next he with ⟨st, ht⟩ | ⟨-, rfl⟩ | ⟨t1, h1⟩ | ⟨t1, s1, t2, s2, h1, h2, rfl⟩
    · exact .inl ⟨st, ht⟩
    · exact .inr (.inr (.inr rfl))
    · exact .inr (.inr (.inr (State.sampleNow_rsps h1)))
    · exact .inr (.inr (.inl ⟨0, by simp [State.sampleNow_rsps h2, State.sampleNow_rsps h1]⟩))

/-- R200: a command that answers a status other than `OK` has done nothing but answer, or has asked the factory and
answered `NoDriver`. -/
theorem exec_of_failed {i : Instr} {s t : State} {w : Word64} (he : exec i s = .next t)
    (hr : t.rsps = s.rsps ++ [w]) (hw : rspStatus w ≠ Status.ok.code) :
    (∃ st, t = s.respond st 0) ∨
      (rspStatus w = Status.noDriver.code ∧ ∃ code, t = s.xportOpen.2.respond .noDriver code) := by
  rcases exec_raises_or_not_failed he with hraise | ⟨code, ht⟩ | ⟨data, hok⟩ | hwait
  · exact .inl hraise
  · have hword : w = rspWord .noDriver code := by simpa [ht] using hr.symm
    exact .inr ⟨by rw [hword, rspStatus_rspWord], code, ht⟩
  · have hword : w = rspWord .ok data := by simpa [hok] using hr.symm
    exact absurd (by rw [hword, rspStatus_rspWord]) hw
  · simp [hwait] at hr

/-! ### The statements about exceptions -/

/-- Settles O39: answering changes the list of responses alone, and asking the factory is answered `NoDriver`. -/
theorem failedCommandChangesNothing : Obligations.FailedCommandChangesNothing := by
  unfold Obligations.FailedCommandChangesNothing
  intro i s t w he hr hw
  rcases exec_of_failed he hr hw with ⟨st, rfl⟩ | ⟨hnd, code, rfl⟩
  · exact ⟨⟨rfl, rfl, rfl, rfl, rfl, rfl⟩, rfl, rfl, rfl, fun _ => ⟨rfl, rfl⟩⟩
  · exact ⟨by simp [SameRegisters], by simp, by simp, by simp, fun hne => absurd hnd hne⟩

/-- Settles O8: in `IDLE` the port is looked at, and nothing stands there. -/
theorem finalStateStays : Obligations.FinalStateStays := by
  unfold Obligations.FinalStateStays
  rintro s ⟨hport, hphase⟩
  simp [step, State.fetch, hphase, hport]

end Sys2Proof.Machine
end

section
/-! PROOF. Reset and hazards (family 70_reset_and_hazards.md): what a record command reads of the checksum register, and
a reset between commands. -/

namespace Sys2Proof.Machine

/-! ### The checksum register under the operations of a record command (R230) -/

/-- R149: the running state of a record starts from `CRC_INIT`, so what the register held before is gone. -/
theorem State.sendRecord_withCrc (s : State) (v : Word32) (body : List Byte) :
    { s with crc := v }.sendRecord body = s.sendRecord body := rfl

/-- R33: the clock is sampled without a look at the checksum register, which keeps its value. -/
theorem State.sampleNow_withCrc {s s' : State} {now : Word64} (h : s.sampleNow = some (now, s')) (v : Word32) :
    { s with crc := v }.sampleNow = some (now, { s' with crc := v }) := by
  unfold State.sampleNow at h ⊢
  split at h
  · split at h
    · rename_i hs hle
      cases h
      simp [hs, hle]
    · cases h
  · rename_i hs
    cases h
    simp [hs]

/-- R230: a `TX.WRITE` past its checks replaces the checksum register before anything depends on it. -/
theorem State.writeChannel_withCrc {c : ChanCtx} {n : BitVec 16} {pix : List Byte} (s : State) (k : Nat) (v : Word32)
    (h : need n c.width ≤ pix.length) :
    { s with crc := v }.writeChannel k c n pix = s.writeChannel k c n pix := by
  rw [State.writeChannel_of_le _ k h, State.writeChannel_of_le _ k h, State.sendRecord_withCrc]

/-- R230: a poll that sends the commit record replaces the checksum register. -/
theorem State.commitPoll_withCrc {s t : State} (v : Word32) (hp : s.phase = .wait) (h : s.commitPoll = .next t)
    (ht : t.phase = .idle) : { s with crc := v }.commitPoll = .next t := by
  rcases State.commitPoll_next h with ⟨t1, h1, -⟩ | ⟨t1, s1, t2, s2, h1, ho, h2, rfl⟩
  · rw [State.sampleNow_phase h1, hp] at ht
    cases ht
  · rw [State.commitPoll_of_open (State.sampleNow_withCrc h1 v) ho (State.sampleNow_withCrc h2 v),
      State.sendRecord_withCrc]

/-! ### A reset between commands (R220) -/

/-- R220: an idle core that finds a reset at the head of the host's list takes it. -/
theorem step_of_reset {s : State} {rest : List HostAction} (hp : s.phase = .idle) (hq : s.port = .reset :: rest) :
    step s = .next { s with port := rest }.assertReset := by
  simp [step, State.fetch, hp, hq]

/-! ### The statements about reset and hazards -/

/-- Settles O43: both commands do nothing with the register but replace it, since a poll that completes has sent its
record. -/
theorem recordsDoNotDependOnTheChecksumRegister : Obligations.RecordsDoNotDependOnTheChecksumRegister := by
  unfold Obligations.RecordsDoNotDependOnTheChecksumRegister
  refine fun s t v => ⟨fun ch n pix k c hch hl hle => ?_, fun sr hp he ht => ?_⟩
  · have hcv : ({ s with crc := v } : State).channel ch = some (k, c) := State.channel_of_is hch
    rw [exec_txWrite_of_open hcv hl, State.writeChannel_withCrc s k v hle,
      exec_txWrite_of_open (State.channel_of_is hch) hl]
  · rw [exec_txCommit_of_wait hp] at he
    exact (exec_txCommit_of_wait (s := { s with crc := v }) hp sr).trans (State.commitPoll_withCrc v hp he ht)

/-- Settles O10: what `assertReset` leaves is what the statement writes out. -/
theorem hostResetReloadsTheRegisters : Obligations.HostResetReloadsTheRegisters := by
  unfold Obligations.HostResetReloadsTheRegisters
  intro s rest hp hq
  rw [step_of_reset hp hq]
  rfl

end Sys2Proof.Machine
end
